-- ==== Sys2Proof/Word.lean ====
section
/-! DEFINITION. Sys2Proof/Word.lean: the word types of the block (R4, R9 to R11). -/

namespace Sys2Proof

abbrev Byte := BitVec 8
abbrev W16 := BitVec 16
abbrev W32 := BitVec 32
abbrev W64 := BitVec 64

/-- A physical core number (R10): 9 × y + x. -/
abbrev PCore := Fin 72
/-- A logical core number (R9): 8 × r + c. -/
abbrev LCore := Fin 64
/-- A context slot (R94). -/
abbrev Slot := Fin 96
/-- A pitch number (R97). -/
abbrev Pitch := Fin 16
/-- An Ohmox Link port (R262). -/
abbrev LPort := Fin 4

end Sys2Proof
end

