-- ==== Sys2Proof/Syntax.lean ====
section
/-! DEFINITION. Sys2Proof/Syntax.lean: the commands and events the block takes, one constructor for each row of
spec/opcode_table.json, with the operands that the rules give each of them. -/

namespace Sys2Proof

/-- A submission ring (R288): the admin ring, or the ring of a context slot. -/
inductive Ring where
  | admin
  | slot (s : Slot)
deriving DecidableEq, Repr

/-- Where a request that has two forms comes from: a DEBUG descriptor, or a register write of the value given. -/
inductive ReqSrc where
  | desc (r : Ring)
  | reg (v : W32)
deriving DecidableEq, Repr

/-- The three occasions of a swap-in (R95, R107): SET_POLICY SWAP_IN from a ring, the decision of the Market for a
slot (R106), and the end of the restore of a slot that is ARRIVING. -/
inductive SwapSrc where
  | desc (r : Ring)
  | market (s : Slot)
  | restored (s : Slot)
deriving DecidableEq, Repr

/-- The three clock loops (R379). -/
inductive Loop where
  | aLoop | fLoop | tLoop
deriving DecidableEq, Repr

/-- What LOOPS_LOCKED is about: the T-loop and F-loop after a cold reset, or a relock of the A-loop. -/
inductive LockEvent where
  | startUp | aLoop
deriving DecidableEq, Repr

/-- The owner of a read whose beat arrives (R310, R336, R393). -/
inductive Requester where
  | ctx (s : Slot)
  | supervisor
  | fabric (p : Pitch)
deriving DecidableEq, Repr

/-- Where an emergency request of EMERGENCY_REQUEST comes from (Table 17.4). -/
inductive EmergSrc where
  | pin | vok
deriving DecidableEq, Repr

/-- The place of a protected word that a scrubber or a reader meets (R331, Table 15.2).
`shared` (0 task store, 1 matching store, 2 edge memory, 3 the control domain's middle stores) and `coreShared` (0 handle table,
1 instruction memory, 2 release buffer) name a word of a RAM whose rows carry an owner tag in three copies, and the bits in which the
first and the second copy have changed since the tag was written (R333). -/
inductive RamLoc where
  | scratch (c : PCore) (bank : Fin 24) (word : BitVec 15)
  | tableSlot (c : PCore) (i : Fin 16) (a : BitVec 16)
  | coreShared (c : PCore) (ram : Fin 3) (a : BitVec 16) (f1 f2 : BitVec 7)
  | shared (store : BitVec 2) (a : BitVec 24) (f1 f2 : BitVec 7)
  | versionRow (s : Slot) (a : BitVec 16)
  | statistics (s : Slot) (a : BitVec 16)
  | completionEgress (s : Slot) (a : BitVec 16)
  | eventEgress (a : BitVec 16)
  | tallyEgress (a : BitVec 16)
  | traceEgress (part : Fin 4) (a : BitVec 16)
  | control (a : BitVec 16)
deriving DecidableEq, Repr

/-- A scratch word as a reader finds it, with its check bits, where the RAM has changed it (R328, R330). -/
structure Upset where
  core : PCore
  bank : Fin 24
  word : BitVec 15
  w : BitVec 144
deriving DecidableEq, Repr

/-- The four units that take commands from the sequencer (R117). -/
inductive CmdUnit where
  | engine | vector | table | move
deriving DecidableEq, Repr

/-- The start of a command (R118): its unit, and a word that its reads find changed (R330). -/
structure StartOf where
  unit : CmdUnit
  upset : Option Upset := none
deriving DecidableEq, Repr

/-- One word of a column-group sweep (R343): the bank, and the word at the sweep's place as it is read. -/
structure SweepOf where
  bank : Fin 24
  w : BitVec 144
deriving DecidableEq, Repr

/-- A queue instance (R236): its kind, the index of Table 11.1 and its owner. -/
structure QueueRef where
  kind : BitVec 4
  index : BitVec 12
  owner : Option Slot
deriving DecidableEq, Repr

/-- The straps sampled in stage S0 (R385, R399). -/
structure Straps where
  perSrc : Bool
  rmapWait : Bool
  parkMem : Bool
  parkHost : Bool
  parkLink : Bool
  parkTrc : Bool
deriving DecidableEq, Repr

/-- A beat of read data at a memory port, or at the host port (port 16): R400, R402, R404. -/
structure Beat where
  port : Fin 17
  who : Requester
  addr : W64
  data : List (BitVec 128)
  chk : List (BitVec 16)
  err : BitVec 2
deriving DecidableEq, Repr

/-- A link group as it is carried (R265): the 112-bit header, 16 slots of 32 bytes and the CRC-32. -/
structure Group where
  hdr : BitVec 112
  slots : List (BitVec 256)
  crc : W32
deriving DecidableEq, Repr

/-- What a link receiver gets (R264, R265): the group as it was sent, the bit of the first codeword's data field at which
it starts, the symbols that the channel changed in each codeword that it overlaps (position in the order sent and
difference), and the 1/16 ns part of the time at which its first symbol left LKp_RXD (R281). -/
structure RxGroup where
  g : Group
  place : Nat
  errors : List (List (Nat × BitVec 10))
  frac : BitVec 4
deriving DecidableEq, Repr

/-- A signal of a memory port or of the host port, port 16 (Table 18.3, R404). -/
inductive PortPin where
  | arValid | arReady | arAddr | arBeats | arTag | arPasid | rValid | rTag | rLast | rData | rChk | rErr
  | wValid | wReady | wAddr | wMask | wTag | wPasid | wData | wChk | bValid | bTag | bErr
deriving DecidableEq, Repr

/-- A signal that the wrapper's boundary register covers: every one of Tables 12.1, 18.3 and 18.4 but the clocks (R408). -/
inductive Pin where
  | port (p : Fin 17) (x : PortPin)
  | msiValid | msiVec | msiReady
  | txd (p : LPort) (l : Fin 9)
  | rxd (p : LPort) (l : Fin 9)
  | rxlock (p : LPort) (l : Fin 9)
  | phyRstN (p : LPort)
  | msValid | msWrite | msAddr | msWdata | msReady | msRvalid | msErr | msRdata
  | nvReq | nvAddr | nvRdata | nvRvalid | fuseReq | fuseAddr | fuseRdata | fuseRvalid
  | trcD | trcValid | trcReady | pwronRstN | rstN | aryVid | aryVok | aryPg | memPg | pwrEmergN | zreadyPd | zreadyIn
  | perSrc | rmapWait | parkMem | parkHost | parkLink | parkTrc
deriving DecidableEq, Repr

/-- An UpdateWR of the wrapper (R408): the code in the instruction register, and what has been shifted into the cells of the boundary
register since the one before, by signal. -/
structure WrUpdate where
  code : BitVec 4
  cells : List (Pin × Nat) := []
deriving DecidableEq, Repr

/-- The commands and events of spec/opcode_table.json, in the table's order. A sequencer instruction carries the
physical core and bits [25:0] of its word (R218); a descriptor carries the ring from which it is taken (R296). -/
inductive Instr where
  | alu (core : PCore) (w : BitVec 26)
  | addi (core : PCore) (w : BitVec 26)
  | andi (core : PCore) (w : BitVec 26)
  | ori (core : PCore) (w : BitVec 26)
  | shi (core : PCore) (w : BitVec 26)
  | movi (core : PCore) (w : BitVec 26)
  | movk (core : PCore) (w : BitVec 26)
  | beq (core : PCore) (w : BitVec 26)
  | bne (core : PCore) (w : BitVec 26)
  | blt (core : PCore) (w : BitVec 26)
  | bge (core : PCore) (w : BitVec 26)
  | bltu (core : PCore) (w : BitVec 26)
  | bgeu (core : PCore) (w : BitVec 26)
  | jal (core : PCore) (w : BitVec 26)
  | jr (core : PCore) (w : BitVec 26)
  | sld (core : PCore) (w : BitVec 26)
  | sst (core : PCore) (w : BitVec 26)
  | gets (core : PCore) (w : BitVec 26)
  | setp (core : PCore) (w : BitVec 26)
  | aset (core : PCore) (w : BitVec 26)
  | aget (core : PCore) (w : BitVec 26)
  | aadd (core : PCore) (w : BitVec 26)
  | alen (core : PCore) (w : BitVec 26)
  | ldw (core : PCore) (w : BitVec 26)
  | mmul (core : PCore) (w : BitVec 26)
  | psout (core : PCore) (w : BitVec 26)
  | vop (core : PCore) (w : BitVec 26)
  | vred (core : PCore) (w : BitVec 26)
  | vrand (core : PCore) (w : BitVec 26)
  | tload (core : PCore) (w : BitVec 26)
  | teval (core : PCore) (w : BitVec 26)
  | move (core : PCore) (w : BitVec 26)
  | twld (core : PCore) (w : BitVec 26)
  | stash (core : PCore) (w : BitVec 26)
  | sload (core : PCore) (w : BitVec 26)
  | squery (core : PCore) (w : BitVec 26)
  | gacc (core : PCore) (w : BitVec 26)
  | gread (core : PCore) (w : BitVec 26)
  | gxenc (core : PCore) (w : BitVec 26)
  | send (core : PCore) (w : BitVec 26)
  | recv (core : PCore) (w : BitVec 26)
  | rwrite (core : PCore) (w : BitVec 26)
  | wopen (core : PCore) (w : BitVec 26)
  | wclose (core : PCore) (w : BitVec 26)
  | wait (core : PCore) (w : BitVec 26)
  | brk (core : PCore) (w : BitVec 26)
  | post (core : PCore) (w : BitVec 26)
  | done (core : PCore) (w : BitVec 26)
  | take (core : PCore) (w : BitVec 26)
  | commandStart (core : PCore) (u : StartOf)
  | commandComplete (core : PCore) (u : CmdUnit)
  | orderedRelease (core : PCore)
  | fillNotice (core src : PCore)
  | arrival (upset : Bool)
  | postAccept (core : PCore)
  | retirement (core : PCore)
  | dispatchSelect (upset : Option QueueRef)
  | preemptAck (core : PCore)
  | kernelEntry (core : PCore)
  | bell
  | sleepConfirm
  | admission (p : Pitch)
  | imageInstall (s : Slot)
  | bankPowerUpDone (core : PCore) (bank : Fin 24)
  | submitSlice (r : Ring)
  | loadImage (r : Ring)
  | loadFabricImage (r : Ring)
  | fabricInstallPass (p : Pitch)
  | fabricInstallCheck (p : Pitch)
  | bindTensor (r : Ring)
  | copyTensor (r : Ring)
  | unbindTensor (r : Ring)
  | fence (r : Ring)
  | kill (r : Ring)
  | killResolution (r : Ring)
  | evict (r : Ring)
  | readCounters (r : Ring)
  | openContext (r : Ring)
  | updatePolicy (r : Ring)
  | setPolicyResume (r : Ring)
  | closeContext (r : Ring)
  | swapIn (src : SwapSrc)
  | brkArm (r : Ring)
  | brkDisarm (r : Ring)
  | debugResume (r : Ring)
  | debugRead (r : Ring)
  | stopAtBell (src : ReqSrc)
  | resumeBell (src : ReqSrc)
  | stopNow (src : ReqSrc)
  | stopNowTaken
  | resumeNow (src : ReqSrc)
  | trigger (src : ReqSrc)
  | breakpointHit (core : PCore)
  | breakpointHalt (core : PCore)
  | wake (v : W32)
  | adminResume (v : W32)
  | bellEnable (v : W32)
  | belPeriodWrite (v : W32)
  | ctxQuotaWrite (v : W32)
  | applyMask (v : W32)
  | regulatorWrite (off : W16) (v : W32)
  | bankForceWrite (v : W32)
  | detWrite (off : W16) (v : W32)
  | resetBlock (v : W32)
  | resetPitch (v : W32)
  | resetContext (v : W32)
  | retrain (v : W32)
  | linkEnable (v : W32)
  | clearCounters (v : W32)
  | traceControlWrite (v : W32)
  | forceB (v : W32)
  | throttleRequest (off : W16) (v : W32)
  | push (v : W32)
  | pushDone (v : W32)
  | rmapPush (v : W32)
  | rmapDone (v : W32)
  | linkChipWrite (v : W32)
  | selectorWrite (off : W16) (v : W32)
  | pairLoRead (off : W16)
  | registerWrite (off : W16) (v : W32)
  | bellMarker (port : LPort)
  | barrier (port : LPort)
  | barrierSend
  | barrierRepeat
  | markerMissed
  | barrierWait
  | zreadyTimeout
  | zreadyChange (level : Bool)
  | vote (port : LPort)
  | decision (port : LPort)
  | commitInDoubt (s : Slot)
  | groupTransmit (port : LPort) (frac : BitVec 4)
  | groupReceive (port : LPort) (rx : RxGroup)
  | replayTimeout (port : LPort)
  | trainingAdvance (port : LPort)
  | trainingTimeout (port : LPort)
  | trainingRetry (port : LPort)
  | rxlockChange (port : LPort) (lane : Fin 9) (level : Bool)
  | laneSwap (port : LPort)
  | laneSwapEffect (port : LPort) (tx : Bool)
  | tsyncSend (port : LPort)
  | tsyncReq (port : LPort)
  | tsyncRsp (port : LPort)
  | cut (port : LPort)
  | request (core : PCore)
  | grant (core : PCore)
  | nack (core : PCore)
  | message (core : PCore)
  | windowWrite (core : PCore)
  | withdraw (core : PCore)
  | meshTimeout (core : PCore) (origin : W16) (s : Slot)
  | memReadBeat (b : Beat)
  | memWriteAck (port : Fin 17) (tag : BitVec 8) (err : BitVec 2)
  | scrub (loc : RamLoc) (w : BitVec 144)
  | coalesceWindowClose
  | selftest (core : PCore) (crcs : List W32)
  | sweep (core : PCore) (bank : SweepOf)
  | coreCopy (core : PCore)
  | queueStale (q : QueueRef)
  | coldReset (st : Straps)
  | warmReset
  | fuseRead (bytes : List Byte)
  | personalityLoad (nv : Option (List Byte))
  | rmapWait
  | supplyStage
  | startupOrder
  | startupDone
  | supplyLost (mem : Bool)
  | supplyRestored
  | ctlSwitchover
  | ctlReturn
  | ctlBackupLow
  | loopCheck (l : Loop) (ok : Bool)
  | clockTransitionEnd
  | aryVok
  | vidTimeout
  | emergencyRequest (src : EmergSrc) (raised : Bool)
  | thermalReading (raw : List (BitVec 16))
  | tracePacketClose
  | pcsample (core : PCore)
  | traceSync
  | traceBeat
  | loopsLocked (e : LockEvent)
  | waitTimeReached (core : PCore)
  | pushTimeout
  | rmapWaitTimeout
  | updateWr (u : WrUpdate)
  | mbistDone (res : BitVec 80)
deriving DecidableEq, Repr

end Sys2Proof
end

