-- ==== Sys2Proof/Decode.lean ====
section
/-! DEFINITION. Sys2Proof/Decode.lean: the words of the sequencer (R218): which command an instruction word of a
physical core is, and the word of a command. spec/opcode_table.json gives no row any bits, so no table word spells a
command. -/

namespace Sys2Proof

/-- The command that a word spells by the bits of spec/opcode_table.json: the table gives no row any bits. -/
def decodeTableWord (_nbits _w : Nat) : Option Instr := none

/-- The opcode of an instruction word, bits [31:26] (R218). -/
def opcodeOf (v : W32) : BitVec 6 := v.extractLsb' 26 6

/-- Bits [25:0] of an instruction word. -/
def operandsOf (v : W32) : BitVec 26 := v.extractLsb' 0 26

/-- A word from its opcode and its bits [25:0]. -/
def seqWord (op : BitVec 6) (w : BitVec 26) : W32 := op ++ w

/-- The instruction with an opcode; none for an opcode that no table or rule assigns (R234). -/
def seqInstr (core : PCore) (op : BitVec 6) (w : BitVec 26) : Option Instr :=
  match op.toNat with
  | 0x01 => some (.alu core w)
  | 0x02 => some (.addi core w)
  | 0x03 => some (.andi core w)
  | 0x04 => some (.ori core w)
  | 0x05 => some (.shi core w)
  | 0x06 => some (.movi core w)
  | 0x07 => some (.movk core w)
  | 0x08 => some (.beq core w)
  | 0x09 => some (.bne core w)
  | 0x0A => some (.blt core w)
  | 0x0B => some (.bge core w)
  | 0x0C => some (.bltu core w)
  | 0x0D => some (.bgeu core w)
  | 0x0E => some (.jal core w)
  | 0x0F => some (.jr core w)
  | 0x10 => some (.sld core w)
  | 0x11 => some (.sst core w)
  | 0x12 => some (.gets core w)
  | 0x13 => some (.setp core w)
  | 0x14 => some (.aset core w)
  | 0x15 => some (.aget core w)
  | 0x16 => some (.aadd core w)
  | 0x17 => some (.alen core w)
  | 0x20 => some (.ldw core w)
  | 0x21 => some (.mmul core w)
  | 0x22 => some (.psout core w)
  | 0x24 => some (.vop core w)
  | 0x25 => some (.vred core w)
  | 0x26 => some (.vrand core w)
  | 0x28 => some (.tload core w)
  | 0x29 => some (.teval core w)
  | 0x2C => some (.move core w)
  | 0x2D => some (.twld core w)
  | 0x2E => some (.stash core w)
  | 0x2F => some (.sload core w)
  | 0x30 => some (.squery core w)
  | 0x31 => some (.gacc core w)
  | 0x32 => some (.gread core w)
  | 0x33 => some (.gxenc core w)
  | 0x34 => some (.send core w)
  | 0x35 => some (.recv core w)
  | 0x36 => some (.rwrite core w)
  | 0x37 => some (.wopen core w)
  | 0x38 => some (.wclose core w)
  | 0x3A => some (.post core w)
  | 0x3B => some (.done core w)
  | 0x3C => some (.take core w)
  | 0x3D => some (.wait core w)
  | 0x3E => some (.brk core w)
  | _ => none

/-- The instruction that a word is for the sequencer of a physical core; none is ILLEGAL_OP (R218). -/
def decodeSeqWord (core : PCore) (v : W32) : Option Instr := seqInstr core (opcodeOf v) (operandsOf v)

/-- The physical core and the word of a sequencer instruction; none for every other command. -/
def encodeSeq (i : Instr) : Option (PCore × W32) :=
  match i with
  | .alu c w => some (c, seqWord 0x01 w)
  | .addi c w => some (c, seqWord 0x02 w)
  | .andi c w => some (c, seqWord 0x03 w)
  | .ori c w => some (c, seqWord 0x04 w)
  | .shi c w => some (c, seqWord 0x05 w)
  | .movi c w => some (c, seqWord 0x06 w)
  | .movk c w => some (c, seqWord 0x07 w)
  | .beq c w => some (c, seqWord 0x08 w)
  | .bne c w => some (c, seqWord 0x09 w)
  | .blt c w => some (c, seqWord 0x0A w)
  | .bge c w => some (c, seqWord 0x0B w)
  | .bltu c w => some (c, seqWord 0x0C w)
  | .bgeu c w => some (c, seqWord 0x0D w)
  | .jal c w => some (c, seqWord 0x0E w)
  | .jr c w => some (c, seqWord 0x0F w)
  | .sld c w => some (c, seqWord 0x10 w)
  | .sst c w => some (c, seqWord 0x11 w)
  | .gets c w => some (c, seqWord 0x12 w)
  | .setp c w => some (c, seqWord 0x13 w)
  | .aset c w => some (c, seqWord 0x14 w)
  | .aget c w => some (c, seqWord 0x15 w)
  | .aadd c w => some (c, seqWord 0x16 w)
  | .alen c w => some (c, seqWord 0x17 w)
  | .ldw c w => some (c, seqWord 0x20 w)
  | .mmul c w => some (c, seqWord 0x21 w)
  | .psout c w => some (c, seqWord 0x22 w)
  | .vop c w => some (c, seqWord 0x24 w)
  | .vred c w => some (c, seqWord 0x25 w)
  | .vrand c w => some (c, seqWord 0x26 w)
  | .tload c w => some (c, seqWord 0x28 w)
  | .teval c w => some (c, seqWord 0x29 w)
  | .move c w => some (c, seqWord 0x2C w)
  | .twld c w => some (c, seqWord 0x2D w)
  | .stash c w => some (c, seqWord 0x2E w)
  | .sload c w => some (c, seqWord 0x2F w)
  | .squery c w => some (c, seqWord 0x30 w)
  | .gacc c w => some (c, seqWord 0x31 w)
  | .gread c w => some (c, seqWord 0x32 w)
  | .gxenc c w => some (c, seqWord 0x33 w)
  | .send c w => some (c, seqWord 0x34 w)
  | .recv c w => some (c, seqWord 0x35 w)
  | .rwrite c w => some (c, seqWord 0x36 w)
  | .wopen c w => some (c, seqWord 0x37 w)
  | .wclose c w => some (c, seqWord 0x38 w)
  | .post c w => some (c, seqWord 0x3A w)
  | .done c w => some (c, seqWord 0x3B w)
  | .take c w => some (c, seqWord 0x3C w)
  | .wait c w => some (c, seqWord 0x3D w)
  | .brk c w => some (c, seqWord 0x3E w)
  | _ => none

end Sys2Proof
end

