-- ==== Sys2Proof/Config.lean ====
section
/-! DEFINITION. Sys2Proof/Config.lean: what one implementation fixes and the spec leaves open: free values, which
nothing in the model can evaluate. Each is applied to the operands it depends on, or to the counter `free` of the state. -/

namespace Sys2Proof

/-- STEP_MAJOR and STEP_MINOR of ID.IDCODE (R413): the stepping of the part, fixed by the silicon. -/
opaque Config.stepping : BitVec 8

/-- The packing of DETAIL, 16 bytes, where a code's rule names its contents and no bit positions
(log entry 12): the code and the named numbers, in the order in which the rule names them. -/
opaque Config.detailPack : BitVec 16 → List Nat → BitVec 128

/-- A free value of 64 bits for a value that the spec leaves open, fresh for every value of the counter. -/
opaque Config.freeValue : Nat → BitVec 64

/-- Which of the positions that R157 allows a 2:4 group stores where fewer than two of its values are not zero: a number by
column, group and the positions of those values (log entry 13). -/
opaque Config.pos24 : Nat → Nat → List Nat → Nat

/-- The words of 16 bytes that one entry of a shared RAM takes, where no rule states its format: 0 task store, 1 matching store,
2 edge memory, 3 middle stores, 4 handle table (R331, log entry 82). -/
opaque Config.entryWords : Nat → Nat

/-- The words of a RAM array whose size no rule states, by array number (R335, log entry 82). -/
opaque Config.arrayWords : Nat → Nat

/-- The aging margin in ps that the monitors of a physical core show at a Bell (R341): physical, read every Bell. -/
opaque Config.agingMargin : PCore → Nat → Nat

end Sys2Proof
end

