-- ==== Sys2Proof/Machine/Tables.lean ====
section
/-! DEFINITION. Sys2Proof/Machine/Tables.lean: the two containers the units of the state are kept in:
a fixed table of n entries, and a sparse map keyed by a natural number. -/

namespace Sys2Proof

/-- A table of exactly n entries. -/
abbrev Tab (α : Type) (n : Nat) := Vector α n

namespace Tab

/-- Every entry holds x. -/
def fill (n : Nat) (x : α) : Tab α n := Vector.replicate n x

/-- Entry i. -/
def get (t : Tab α n) (i : Fin n) : α := Vector.get t i

/-- The table with entry i replaced. -/
def put (t : Tab α n) (i : Fin n) (x : α) : Tab α n := Vector.set t i.val x i.isLt

/-- Entry at a number that may lie outside the table. -/
def at? (t : Tab α n) (i : Nat) : Option α := t[i]?

/-- The table with entry i replaced, unchanged when i lies outside. -/
def putN (t : Tab α n) (i : Nat) (x : α) : Tab α n := if h : i < n then Vector.set t i x h else t

/-- Every index and its entry, ascending. -/
def pairs (t : Tab α n) : List (Fin n × α) := (List.finRange n).map fun i => (i, t.get i)

end Tab

/-- A sparse map from natural numbers, entries in ascending order of their key. -/
abbrev KMap (α : Type) := List (Nat × α)

namespace KMap

/-- The value stored under key k. -/
def find (k : Nat) : KMap α → Option α
  | [] => none
  | (j, v) :: t => if j = k then some v else find k t

/-- The map with v stored under key k. -/
def insert (k : Nat) (v : α) : KMap α → KMap α
  | [] => [(k, v)]
  | (j, w) :: t => if j = k then (k, v) :: t else if k < j then (k, v) :: (j, w) :: t else (j, w) :: insert k v t

/-- The map without key k. -/
def erase (k : Nat) (m : KMap α) : KMap α := m.filter fun e => e.1 != k

/-- The lowest key at or above i that the map, in ascending order, does not use. -/
def fresh (i : Nat) : KMap α → Nat
  | [] => i
  | (j, _) :: t => if j = i then fresh (i + 1) t else if j < i then fresh i t else i

end KMap

/-- The value of the first n elements' sum. -/
def natSum (l : List Nat) : Nat := l.foldl (· + ·) 0

end Sys2Proof
end

