-- ==== Sys2Proof/Machine/Bits.lean ====
section
/-! DEFINITION. Sys2Proof/Machine/Bits.lean: bit fields (R4), little-endian byte order (R5), and the small number
helpers that the records and registers of the block are read with. -/

namespace Sys2Proof.Machine

/-- The little-endian value of a byte string (R5). -/
def leNat : List Byte → Nat
  | [] => 0
  | b :: t => b.toNat + 256 * leNat t

/-- n bytes of a number, least significant first (R5). -/
def leBytes (n v : Nat) : List Byte :=
  match n with
  | 0 => []
  | n + 1 => BitVec.ofNat 8 v :: leBytes n (v / 256)

/-- Bits [hi:lo] of a number (R4). -/
def fieldN (v hi lo : Nat) : Nat := (v >>> lo) % 2 ^ (hi + 1 - lo)

/-- Bits [hi:lo] of a word as a number. -/
def fld (v : BitVec w) (hi lo : Nat) : Nat := fieldN v.toNat hi lo

/-- Bit i of a word. -/
def bit (v : BitVec w) (i : Nat) : Bool := v.getLsbD i

/-- A Bool as a number. -/
def b2n (b : Bool) : Nat := if b then 1 else 0

/-- The word with bit i set to b. -/
def setBit (v : BitVec w) (i : Nat) (b : Bool) : BitVec w :=
  if b then v ||| BitVec.ofNat w (2 ^ i) else v &&& ~~~ BitVec.ofNat w (2 ^ i)

/-- The signed value of the low n bits of a number. -/
def signedN (n v : Nat) : Int :=
  let u := v % 2 ^ n
  if u < 2 ^ (n - 1) then (u : Int) else (u : Int) - (2 ^ n : Nat)

/-- The low n bits of an integer, as a number. -/
def wrapN (n : Nat) (v : Int) : Nat := (v % ((2 ^ n : Nat) : Int)).toNat

/-- ⌈a ÷ b⌉. -/
def ceilDiv (a b : Nat) : Nat := (a + b - 1) / b

/-- A number rounded up to a multiple of b. -/
def roundUp (a b : Nat) : Nat := ceilDiv a b * b

/-- floor(log2 n), zero for n = 0. -/
def log2 (n : Nat) : Nat := Nat.log2 n

/-- 32-bit little-endian word at byte offset off of a byte string; bytes past its end read as zero. -/
def le32 (bs : List Byte) (off : Nat) : W32 := BitVec.ofNat 32 (leNat ((bs.drop off).take 4))

/-- 64-bit little-endian word at byte offset off. -/
def le64 (bs : List Byte) (off : Nat) : W64 := BitVec.ofNat 64 (leNat ((bs.drop off).take 8))

/-- 16-bit little-endian word at byte offset off. -/
def le16 (bs : List Byte) (off : Nat) : W16 := BitVec.ofNat 16 (leNat ((bs.drop off).take 2))

/-- Whether bytes lo to hi - 1 of a string are all zero (R6). -/
def zeroBytes (bs : List Byte) (lo hi : Nat) : Bool := ((bs.drop lo).take (hi - lo)).all (· == 0)

/-- The three outcomes of the 12-bit comparison of R68: a distance of 1 to 2,048 is greater. -/
inductive SerialOrder where
  | equal | greater | less
deriving DecidableEq, Repr

/-- The serial-number comparison of R68: the carried generation against the current one. -/
def serialCompare (carried current : BitVec 12) : SerialOrder :=
  let d := (carried - current).toNat
  if d = 0 then .equal else if d ≤ 2048 then .greater else .less

end Sys2Proof.Machine
end

