-- ==== Sys2Proof/Machine/Crc.lean ====
section
/-! DEFINITION. Sys2Proof/Machine/Crc.lean: the two check words of the block: CRC-32 of the link group (R265) and
CRC-32C of images and self-test (R50, R389, R392), both reflected, initial value and final XOR all ones. -/

namespace Sys2Proof.Machine

/-- One bit of a reflected CRC with the reflected polynomial p. -/
def crcBit (p : W32) (c : W32) : W32 := if c.getLsbD 0 then (c >>> 1) ^^^ p else c >>> 1

/-- One byte of a reflected CRC. -/
def crcByte (p : W32) (c : W32) (b : Byte) : W32 :=
  let c := c ^^^ b.zeroExtend 32
  crcBit p (crcBit p (crcBit p (crcBit p (crcBit p (crcBit p (crcBit p (crcBit p c)))))))

/-- A reflected CRC-32 of a byte string with the reflected polynomial p. -/
def crcOf (p : W32) (bs : List Byte) : W32 := bs.foldl (crcByte p) 0xFFFFFFFF ^^^ 0xFFFFFFFF

/-- The CRC-32 of the IEEE 802.3 frame check sequence, polynomial 0x04C1_1DB7 reflected (R265). -/
def crc32 (bs : List Byte) : W32 := crcOf 0xEDB88320 bs

/-- CRC-32C, polynomial 0x1EDC_6F41 reflected (PRESUMED: the Castagnoli CRC that the name stands for, log entry 14). -/
def crc32c (bs : List Byte) : W32 := crcOf 0x82F63B78 bs

/-- A byte string with the four bytes at an offset taken as zero (R50, R392). -/
def zeroAt (bs : List Byte) (off : Nat) : List Byte := bs.take off ++ [0, 0, 0, 0] ++ bs.drop (off + 4)

end Sys2Proof.Machine
end

