-- ==== Sys2Proof/Machine/Ecc.lean ====
section
/-! DEFINITION. Sys2Proof/Machine/Ecc.lean: the protected words of R328 to R330: 36 symbols of GF(16), the check symbols and
the decoder. -/

namespace Sys2Proof.Machine

/-- α × a in GF(16) modulo x^4 + x + 1 (R328). -/
def gfDouble (a : Nat) : Nat := if a ≥ 8 then (2 * a) % 16 ^^^ 3 else 2 * a

/-- The product in GF(16). -/
def gfMul (a b : Nat) : Nat :=
  let t (i : Nat) (x : Nat) : Nat := if b.testBit i then x else 0
  let a1 := gfDouble a
  let a2 := gfDouble a1
  t 0 a ^^^ t 1 a1 ^^^ t 2 a2 ^^^ t 3 (gfDouble a2)

/-- The inverse of a non-zero element: its fourteenth power. -/
def gfInv (a : Nat) : Nat :=
  let a2 := gfMul a a
  let a4 := gfMul a2 a2
  gfMul (gfMul (gfMul a4 a4) a4) a2

/-- x of the data columns, by symbol (Table 15.1). -/
def columnX : List Nat :=
  [0, 2, 4, 6, 8, 10, 12, 14, 0, 1, 4, 5, 8, 9, 12, 13, 0, 1, 2, 3, 8, 9, 10, 11, 0, 1, 2, 3, 5, 6, 7, 12]

/-- The data columns of H as (x, y, z), with z = x² + xy + α³y² (R329). -/
def columns : List (Nat × Nat × Nat) :=
  columnX.zipIdx.map fun c =>
    let x := c.1
    let y := 2 ^ (c.2 / 8)
    (x, y, gfMul x x ^^^ gfMul x y ^^^ gfMul 8 (gfMul y y))

/-- Symbol j of a word. -/
def symbol (w : BitVec 144) (j : Nat) : Nat := fld w (4 * j + 3) (4 * j)

/-- The check symbols of 128 data bits, 33 to 35 as their columns give them and 32 the plain sum (R329). -/
def checkSums (w : BitVec 144) : Nat × Nat × Nat × Nat :=
  columns.zipIdx.foldl (fun s c =>
    let d := symbol w c.2
    (s.1 ^^^ d, s.2.1 ^^^ gfMul d c.1.1, s.2.2.1 ^^^ gfMul d c.1.2.1, s.2.2.2 ^^^ gfMul d c.1.2.2)) (0, 0, 0, 0)

/-- A word with its check bits formed. -/
def eccEncode (d : BitVec 128) : BitVec 144 :=
  let s := checkSums (d.zeroExtend 144)
  d.zeroExtend 144 ||| BitVec.ofNat 144 ((s.1 ||| s.2.1 <<< 4 ||| s.2.2.1 <<< 8 ||| s.2.2.2 <<< 12) <<< 128)

/-- The syndrome S[0] to S[3] of a word. -/
def syndrome (w : BitVec 144) : Nat × Nat × Nat × Nat :=
  let s := checkSums w
  (s.1 ^^^ symbol w 32, s.2.1 ^^^ symbol w 33, s.2.2.1 ^^^ symbol w 34, s.2.2.2 ^^^ symbol w 35)

/-- The 16-bit syndrome. -/
def syndromeBits (w : BitVec 144) : Nat :=
  let s := syndrome w
  s.1 ||| s.2.1 <<< 4 ||| s.2.2.1 <<< 8 ||| s.2.2.2 <<< 12

/-- What the decoder finds (R330): a clean word, one symbol in error with its index and error, or an uncorrectable word. -/
inductive Verdict where
  | clean
  | corrected (sym err : Nat)
  | uncorrectable
deriving DecidableEq, Repr

/-- The decoder of R330. -/
def eccDecode (w : BitVec 144) : Verdict :=
  let s := syndrome w
  if s = (0, 0, 0, 0) then .clean
  else if s.1 = 0 then
    match s.2.1, s.2.2.1, s.2.2.2 with
    | a, 0, 0 => .corrected 33 a
    | 0, a, 0 => .corrected 34 a
    | 0, 0, a => .corrected 35 a
    | _, _, _ => .uncorrectable
  else
    let i := gfInv s.1
    let v := (gfMul s.2.1 i, gfMul s.2.2.1 i, gfMul s.2.2.2 i)
    if v = (0, 0, 0) then .corrected 32 s.1
    else match columns.findIdx? (· == v) with
      | some j => .corrected j s.1
      | none => .uncorrectable

/-- A word with the error of one symbol taken out. -/
def eccFix (w : BitVec 144) (sym err : Nat) : BitVec 144 := w ^^^ BitVec.ofNat 144 (err <<< (4 * sym))

end Sys2Proof.Machine
end

