-- ==== Sys2Proof/Machine/Memory.lean ====
section
/-! DEFINITION. Sys2Proof/Machine/Memory.lean: byte memory in one canonical form, as every scratch memory, the
instruction memories and the model's view of off-block memory are kept: (address, byte) pairs, addresses strictly
rising, no entry equal to what an unlisted address reads as (zero: R135 fills a powered-up bank with zero). -/

namespace Sys2Proof.Machine

/-- Bytes by address, in canonical form. -/
abbrev Memory := List Host.Cell

/-- What an address that the list does not name reads as: zero.
For scratch this is the fill of R135; for off-block memory it is the model's choice (log entry 3). -/
def Memory.blank : Byte := 0

/-- Addresses strictly rise from lo on, and no entry holds the blank byte. -/
def Memory.wfFrom (lo : Nat) : Memory → Bool
  | [] => true
  | (a, b) :: t => decide (lo ≤ a) && decide (b ≠ Memory.blank) && Memory.wfFrom (a + 1) t

/-- The canonical form. -/
def Memory.wf (m : Memory) : Bool := Memory.wfFrom 0 m

/-- The byte at an address. -/
def Memory.read : Memory → Nat → Byte
  | [], _ => Memory.blank
  | (k, b) :: t, a => if k = a then b else if a < k then Memory.blank else Memory.read t a

/-- The memory with one byte written, in canonical form. -/
def Memory.write : Memory → Nat → Byte → Memory
  | [], a, v => if v = Memory.blank then [] else [(a, v)]
  | (k, b) :: t, a, v =>
    if k = a then (if v = Memory.blank then t else (k, v) :: t)
    else if a < k then (if v = Memory.blank then (k, b) :: t else (a, v) :: (k, b) :: t)
    else (k, b) :: Memory.write t a v

/-- n bytes from an address, lowest first. -/
def Memory.readBytes (m : Memory) (a : Nat) : Nat → List Byte
  | 0 => []
  | n + 1 => m.read a :: Memory.readBytes m (a + 1) n

/-- The bytes written from an address on, lowest first. -/
def Memory.writeBytes (m : Memory) (a : Nat) : List Byte → Memory
  | [] => m
  | b :: t => Memory.writeBytes (m.write a b) (a + 1) t

/-- n zero bytes written from an address on. -/
def Memory.clear (m : Memory) (a n : Nat) : Memory := m.filter fun c => c.1 < a || a + n ≤ c.1

end Sys2Proof.Machine
end

