-- ==== Sys2Proof/Machine/Units.lean ====
section
/-! DEFINITION. Sys2Proof/Machine/Units.lean: the records the block reads and keeps, and the state of each of its
units. Each field names its rule and its value after a cold reset. Nat fields hold counts, indices and addresses;
BitVec fields hold what the spec numbers bit by bit. -/

namespace Sys2Proof.Machine

/-! ### Records -/

/-- A token (Table 4.3, R72). -/
structure Token where
  ref : Bool := false
  inl : Bool := false
  handle : Nat := 0
  offset : Nat := 0
  value : W64 := 0
deriving DecidableEq, Repr

/-- A handle record (Table 3.2, R53). -/
structure HandleRec where
  h : Nat := 0
  mem : Nat := 0
  cls : Nat := 0
  size : Nat := 1
  tid : Nat := 0
  off : Nat := 0
deriving DecidableEq, Repr

/-- A task record (Table 3.4, R56). -/
structure TaskRec where
  merge : Bool := false
  recomp : Bool := false
  prio : Nat := 0
  ports : Nat := 0
  dep : Nat := 0
  kernel : Nat := 0
  affinity : Nat := 0xFF
  layer : Nat := 0xFF
  edgeFirst : Nat := 0
  edgeCount : Nat := 0
  atomic : Nat := 0
  ord : Nat := 0
  nout : Nat := 0
  npred : Nat := 0
  arg : W64 := 0
deriving DecidableEq, Repr

/-- An edge record (Table 3.5, R59). -/
structure EdgeRec where
  target : Nat := 0
  port : Nat := 0
  cond : Bool := false
  pred : Nat := 0
  sense : Bool := false
  out : Nat := 0
deriving DecidableEq, Repr

/-- A GAB region record (Table 3.6, R62). -/
structure RegionRec where
  layer : Nat := 0
  flow : Nat := 0
  off : Nat := 0
  len : Nat := 0
  mask : W64 := 0
deriving DecidableEq, Repr

/-- A loaded task-graph image (R50): its header, and the sections the block keeps. BUILD_ID is kept and copied nowhere, as no
trace record (Table 16.10) and no completion entry (Table 13.5) has a field for it (DEDUCED, log entry 77). Task records stay in device
memory (R66); the edge section and the root list are the image's part of edge memory (R71). -/
structure Image where
  addr : Nat := 0
  detReq : Bool := false
  training : Bool := false
  tasks : Nat := 1
  cores : Nat := 1
  entries : Nat := 0
  boundA : Nat := 0
  boundF : Nat := 0
  commitTime : Nat := 0
  peakTokens : Nat := 0
  peakTasks : Nat := 0
  spillLimit : Nat := 0
  layers : Nat := 0
  taskOff : Nat := 128
  kernelOff : Nat := 0
  kernelLen : Nat := 0
  edgeCount : Nat := 0
  buildId : W64 := 0
  handles : List HandleRec := []
  regions : List RegionRec := []
  edges : List EdgeRec := []
  roots : List Nat := []
  entryPorts : List (Nat × Nat) := []
deriving DecidableEq, Repr

/-- Where a completion goes (R298): the ring with the base and size of its completion entries, the reserved completion index,
what the entry copies, and the number of the ring set-up that the descriptor was read under (R306). -/
structure CompRef where
  ring : Ring
  idx : Nat
  sqIndex : Nat
  user : W64
  type : Nat
  slot : Nat
  base : Nat := 0
  size : Nat := 64
  setup : Nat := 0
deriving DecidableEq, Repr

/-- A message header (Table 11.5, R244). -/
structure MsgHdr where
  kind : Nat := 0
  dstChip : Nat := 0
  dstCore : Nat := 0
  target : Nat := 0
  window : Bool := false
  dstSlot : Nat := 0
  tag : W16 := 0
  srcChip : Nat := 0
  srcCore : Nat := 0
  ctxId : W32 := 0
  ctxGen : BitVec 12 := 0
  igen : BitVec 12 := 0
  reason : Nat := 0
  dgen : BitVec 12 := 0
  offset : Nat := 0
  units : Nat := 0
  gid : Nat := 0
deriving DecidableEq, Repr

/-- An item of the mesh or the link (R267): a header and its payload bytes; `cut` marks an item ended by CUT (R285);
`port` is the port that it came in on (none: this chip's own); `due` counts the slots of a forwarded item that are still
to come (R268). -/
structure Item where
  hdr : MsgHdr := {}
  data : List Byte := []
  cut : Bool := false
  slot : Nat := 0x7F
  port : Option LPort := none
  due : Nat := 0
deriving DecidableEq, Repr

/-- An instance in service on a core, as its dispatch record gave it (Table 4.4). -/
structure Inst where
  slot : Slot
  idx : Nat
  task : Nat
  gen : BitVec 12
  level : Nat
  layer : Nat
  atomic : Nat
  ord : Nat
  nout : Nat
  npred : Nat
  rerun : Bool
  recomp : Bool
  base : Nat
  klen : Nat
deriving DecidableEq, Repr

/-- A dispatch record (Table 4.4, R85): 32 header bytes as eight words, and the token slots. -/
structure DispatchRec where
  words : List W32 := []
  tokens : List Token := []
  idx : Nat := 0
  slot : Nat := 0
  recomp : Bool := false
deriving DecidableEq, Repr

/-- A byte range of a scratch memory of one core (R118). -/
structure Range where
  core : PCore
  mem : Nat
  lo : Nat
  hi : Nat
deriving DecidableEq, Repr

/-- The parameters of an LDW that the MMULs after it use (R225). -/
structure LdwP where
  fmtB : Nat := 0
  bsB : Bool := false
  sparse : Nat := 0
  pass : Nat := 0
  aA : W64 := 0
  tile : List Byte := []
deriving DecidableEq, Repr

/-- A command in a unit's queue (R117, R222): what the issuing instruction copied. -/
structure Cmd where
  op : Nat
  fn : Nat := 0
  aD : W64 := 0
  aA : W64 := 0
  aB : W64 := 0
  m0 : W64 := 0
  m1 : W64 := 0
  res : Nat := 0
  inst : Inst
  num : Nat := 0
  seq : Option W16 := none
  writes : List Range := []
  reads : List Range := []
  started : Bool := false
  ldw : LdwP := {}
  data : List Byte := []
  gids : List Nat := []
  nacked : List Nat := []
  time : W64 := 0
  rotFrom : Nat := 0
  stalled : Nat := 0
deriving DecidableEq, Repr

/-- What a result in the release buffer does when it leaves (R133): messages for the mesh, each with its source at a
port; bytes written through a handle on a core, off the block or in its scratch; delta contributions to a core; or a stash
directory entry, with the address and bytes of a spilled item (R192). -/
inductive RelKind where
  | mesh (items : List (Nat × Item))
  | write (core : PCore) (h : Nat) (parts : List (Nat × List Byte)) (priv : Bool) (readers : Nat)
  | gacc (core : PCore) (first count : Nat) (adds : List (Nat × List Int))
  | stash (dir : Nat) (entry : List Byte) (spill : Option (Nat × List Byte))
deriving DecidableEq, Repr

/-- An item of a spill queue (R192): the address of the spill data area at which its next byte goes, the bytes that have
not drained yet, and the core that stashed it. -/
structure SpillItem where
  addr : Nat
  bytes : List Byte
  core : PCore := 0
deriving DecidableEq, Repr

/-- A result that waits in the release buffer (R133): its sequence number, its owner, its bytes, what it does, the number
of the command it comes from, and the ranges that it will write through its own core's handles (R118). -/
structure RelItem where
  seq : W16
  slot : Slot
  inst : Inst
  bytes : Nat
  kind : RelKind
  num : Nat := 0
  ranges : List Range := []
deriving DecidableEq, Repr

/-- A grant-table entry (R248): the request it stands for and what waits on it. -/
structure GrantEnt where
  slot : Slot
  igen : BitVec 12
  hdr : MsgHdr
  num : Nat
  granted : Bool := false
deriving DecidableEq, Repr

/-- Presence of one slot of 4 KiB (Table 6.5, R127): 0 EMPTY, 1 FILLING, 2 FULL. -/
structure Pres where
  state : Nat := 0
  owner : Nat := 0
  readers : Nat := 0
  priv : Bool := false
deriving DecidableEq, Repr

/-- A handle-table entry (Table 6.4, R125). -/
structure HEnt where
  slot : Slot
  h : Nat
  mem : Nat
  cls : Nat
  base : Nat
  size : Nat
deriving DecidableEq, Repr

/-- Region state (Table 8.4, R170), with the region's place (R62). -/
structure RegSt where
  slot : Slot
  idx : Nat
  layer : Nat
  flow : Nat
  off : Nat
  len : Nat
  g : Int := -40
  count : Nat := 0
  clipped : Bool := false
  retired : Bool := false
  baseZero : Bool := true
deriving DecidableEq, Repr

/-- A function slot of the table unit (R116, R180). -/
structure TabSlot where
  owner : Slot
  bytes : List Byte
deriving DecidableEq, Repr

/-- A ring inbox of one context on one core (R246 to R248): tail, head and occupancy in units, and the requests
that wait to be served, in arrival order. -/
structure Inbox where
  slot : Slot
  num : Nat
  cap : Nat
  base : Nat
  isOpen : Bool := false
  gen : BitVec 12 := 0
  epoch : BitVec 12 := 0
  head : Nat := 0
  tail : Nat := 0
  occ : Nat := 0
  waitq : List MsgHdr := []
deriving DecidableEq, Repr

/-- A receive window or combining inbox number of one core (R256, R258). -/
structure Win where
  gen : BitVec 12 := 0
  isOpen : Bool := false
  combining : Bool := false
  owner : Option Inst := none
  lo : Nat := 0
  len : Nat := 0
  tag : W16 := 0
  expect : Nat := 0
  perContribution : Bool := false
  cfmt : Nat := 0
  gx : Int := 0
  granted : Nat := 0
  added : Nat := 0
  ready : Nat := 0
  received : Nat := 0
deriving DecidableEq, Repr

/-- Running or committed statistics of one layer (Table 9.5, R199); magnitudes as binary32 codes. -/
structure LayerStat where
  dmax : W32 := 0
  wmax : W32 := 0
  spec : Nat := 0
  hist : List Nat := [0, 0, 0, 0, 0, 0, 0, 0, 0, 0, 0, 0, 0, 0, 0, 0]
deriving DecidableEq, Repr

/-- A message from a core to the Market (R88): a POST or a retirement. -/
inductive MktMsg where
  | post (i : Inst) (out : Nat) (t : Token)
  | retire (i : Inst) (preds : W16) (stat : LayerStat)
deriving DecidableEq, Repr

/-- The ready-list level of the instance that produced a message (R240). -/
def MktMsg.level : MktMsg → Nat
  | .post i _ _ => i.level
  | .retire i _ _ => i.level

/-- An arrival at the matching store (R75): kind 0 data, 1 skip, 2 control; the ready-list level of its producer (R240), and
the physical core in whose Market input queue it waits, none for an arrival that instantiation or a skip makes (R236). -/
structure Arrival where
  slot : Slot
  gen : BitVec 12
  task : Nat
  port : Nat
  kind : Nat
  tok : Token := {}
  level : Nat := 0
  core : Option PCore := none
deriving DecidableEq, Repr

/-- A task-store entry (Table 4.1, R71). `list` is the entry's chain of matching-store indices, `level` its ready
level (R57), `order` the number of its dispatch. -/
structure TaskEnt where
  slot : Slot
  gen : BitVec 12
  task : Nat
  rcd : TaskRec
  count : Nat
  dataMask : BitVec 16 := 0
  skipMask : BitVec 16 := 0
  ctlReal : Bool := false
  state : Nat := 1
  core : Nat := 0
  list : List Nat := []
  level : Nat := 0
  order : Nat := 0
  rerun : Bool := false
  retained : Bool := false
deriving DecidableEq, Repr

/-- A matching-store entry (Table 4.2, R71); NEXT is the order of the owner's list. -/
structure MatchEnt where
  slot : Slot
  gen : BitVec 12
  task : Nat
  port : Nat
  tok : Token
  retained : Bool := false
deriving DecidableEq, Repr

/-- Format state of one layer (R201). -/
structure FmtSt where
  fmt : Nat := 2
  run : Nat := 0
deriving DecidableEq, Repr

/-- CUR and DIRTY of one versioned tensor or handle (R27): the granules whose CUR is 1 and those that are dirty. -/
structure Gran where
  cur : List Nat := []
  dirty : List Nat := []
deriving DecidableEq, Repr

/-- What a row group of the handle and version table is about. -/
inductive VerKey where
  | offBlock (tid : Nat)
  | scratch (core : PCore) (h : Nat)
deriving DecidableEq, Repr

/-- A binding-table entry (R302). -/
structure Binding where
  tid : Nat
  addr0 : Nat
  addr1 : Nat
  len : Nat
  host : Bool
  versioned : Bool
deriving DecidableEq, Repr

/-- A recorded COPY source, for re-streaming at swap-in (R302, R107). -/
structure CopySrc where
  tid : Nat
  host : Bool
  addr0 : Nat
  stride : Nat
  first : Nat
  count : Nat
deriving DecidableEq, Repr

/-- Policy items (Table 5.3, R96). -/
structure Policy where
  pitch : Pitch := 0
  prio : Nat := 0
  teardown : Bool := false
  rerunLimit : Nat := 3
  evictable : Bool := false
  swapIndex : W16 := 0xFFFF
  debugAllowed : Bool := false
  tallyIdle : Bool := false
deriving DecidableEq, Repr

/-- The group block of a linked context (R44, R306). -/
structure GroupBlk where
  linked : Bool := false
  decider : Nat := 0
  members : Nat := 0
  pairs : List (Nat × Nat) := []
deriving DecidableEq, Repr

/-- The members of a group with their slots: the first MEMBERS pairs of its block (R44, R245). -/
def GroupBlk.memberPairs (g : GroupBlk) : List (Nat × Nat) := g.pairs.take g.members

/-- The ring set-up block (Table 13.2, R290). -/
structure RingSetup where
  sqBase : Nat := 0
  cqBase : Nat := 0
  dbGen : BitVec 12 := 0
  cqLog : Nat := 6
  sqLog : Nat := 6
  pasidEn : Bool := false
  pasid : BitVec 20 := 0
  irqEn : Bool := false
  vector : BitVec 11 := 0
deriving DecidableEq, Repr

/-- Interrupt bookkeeping of a ring (R309): its vector was raised in the period, and the index past a later entry, which
is carried over to the next Bell. -/
structure Irq where
  done : Bool := false
  carry : Option Nat := none
deriving DecidableEq, Repr

/-- A submission and completion ring pair as the block keeps it (R293, R296). `cqTail` is the index that the next
reservation takes; `ahead` says that the KILL at SQ_HEAD + 1 is finished while the SUBMIT_SLICE at SQ_HEAD is not. -/
structure RingSt where
  head : Nat := 0
  tail : Nat := 0
  cqTail : Nat := 0
  cqHead : Nat := 0
  stalePolls : Nat := 0
  irq : Irq := {}
  ahead : Bool := false
deriving DecidableEq, Repr

/-- A SUBMIT_SLICE that was taken and is not finished (R296, R300). -/
structure SubDesc where
  comp : CompRef
  spill : Nat
  param : Nat
  entries : List (Nat × Nat × Token)
  binds : List (Nat × Nat)
  order : Nat := 0
  rerun : Bool := false
  overruns : Nat := 0
deriving DecidableEq, Repr

/-- A slice in service (R22, R67). -/
structure Slice where
  gen : BitVec 12
  det : Bool
  budget : Nat
  boundA : Nat
  boundF : Nat
  tasksUsed : Nat := 0
  retired : Nat := 0
  skipped : Nat := 0
  complete : Bool := false
  voted : Bool := false
  freeRun : Bool := false
deriving DecidableEq, Repr

/-- A breakpoint set (R350). -/
structure Brk where
  code : W16
  pcs : List W16
  hold : Bool
deriving DecidableEq, Repr

/-- Activity of one context in the period (Table 5.6, R110), with the instances retired and skipped. -/
structure Act where
  eng8 : Nat := 0
  eng16 : Nat := 0
  vec : Nat := 0
  tbl : Nat := 0
  scr : Nat := 0
  memrd : Nat := 0
  memwr : Nat := 0
  lnkTx : Nat := 0
  lnkRx : Nat := 0
  retired : Nat := 0
  skipped : Nat := 0
deriving DecidableEq, Repr

/-- Remainders carried into the next Tally (R112): bytes and pJ. -/
structure Carry where
  memrd : Nat := 0
  memwr : Nat := 0
  lnkTx : Nat := 0
  lnkRx : Nat := 0
  pj : Nat := 0
deriving DecidableEq, Repr

/-- What a context's Tally is made from (Table 5.7): identifier, step, activity, remainders, number, outcome and event. -/
structure TallyRec where
  id : W32
  step : W64
  act : Act
  carry : Carry
  seq : W32
  outcome : Nat × W16
deriving DecidableEq, Repr

/-- The states of a context slot (Table 5.1). -/
inductive SlotState where
  | free | opened | loaded | arriving | torn
deriving DecidableEq, Repr

/-- A swap-in that fills an ARRIVING slot (R107). -/
structure SwapIn where
  record : Nat
  byMarket : Bool
  comp : Option CompRef
deriving DecidableEq, Repr

/-- An eviction that waits for its Bell or its write-back (R105, R106). -/
structure Evict where
  byMarket : Bool
  comp : Option CompRef
  successor : Option Nat := none
  writing : Bool := false
  failed : Bool := false
deriving DecidableEq, Repr

/-! ### Units -/

/-- A context slot. -/
structure Ctx where
  /-- Slot state. R94; reset FREE (R383 slots FREE) -/
  state : SlotState := .free
  /-- CONTEXT_ID of the resident context. R94, R96; reset DESIGN CHOICE 0 (log 2) -/
  id : W32 := 0
  /-- CTX_GEN. R94, R95; reset DESIGN CHOICE 0 (log 2) -/
  ctxGen : BitVec 12 := 0
  /-- Instance generation. R67; reset DESIGN CHOICE 0 (log 2); OPEN sets 0 (R95) -/
  igen : BitVec 12 := 0
  /-- Step counter. R24; reset DESIGN CHOICE 0 (log 2); OPEN sets 0 (R95) -/
  step : W64 := 0
  /-- Draining: between a kill and the next admission. R76; reset DESIGN CHOICE 0 (log 2) -/
  draining : Bool := false
  /-- Policy in force. R96; reset the OPEN defaults of Table 5.3 -/
  policy : Policy := {}
  /-- Policy accepted by UPDATE that waits for a Bell without a slice. R96; reset none -/
  policyNext : Option Policy := none
  /-- Ring set-up in force. R290; reset DESIGN CHOICE all zero, sizes 6 (log 2) -/
  setup : RingSetup := {}
  /-- Ring set-up that waits until no slice is in service. R306; reset none -/
  setupNext : Option RingSetup := none
  /-- Linked-group block in force. R44, R306; reset none (Table 5.3) -/
  group : GroupBlk := {}
  /-- Group block that waits with an UPDATE. R96; reset none -/
  groupNext : Option GroupBlk := none
  /-- BACKING_ADDR that waits with an UPDATE. R96, R306; reset none -/
  backingNext : Option Nat := none
  /-- DOORBELL_ADDR. R291; reset DESIGN CHOICE 0 (log 2) -/
  doorbell : Nat := 0
  /-- BACKING_ADDR. R104, R105; reset DESIGN CHOICE 0 (log 2) -/
  backing : Nat := 0
  /-- Ring pointers. R293, R296; reset DESIGN CHOICE 0 (log 2); a ring set-up resets them (R306) -/
  ring : RingSt := {}
  /-- Ring set-ups that have reset the ring pointers so far, so that a descriptor of an earlier ring moves no later one.
  R306; the model's own count; reset DESIGN CHOICE 0 (log 76) -/
  ringSetups : Nat := 0
  /-- Image in force. R65; reset none (FREE) -/
  image : Option Image := none
  /-- Byte address of the image's kernel section in instruction memory. R63; reset DESIGN CHOICE 0 (log 2) -/
  kernBase : Nat := 0
  /-- Checked image that waits for its installing Bell, with its LOAD_IMAGE. R65; reset none -/
  pending : Option (Image × CompRef) := none
  /-- Banks of the pending image powered up for it so far, as cores still to be waited for. R135; reset none -/
  installWait : Bool := false
  /-- Images of the slot when it was closed, with the kernel's place and the pitch: their stores are freed at the next
  Bell. Table 5.2; reset none -/
  toFree : List (Image × Nat × Pitch) := []
  /-- Binding table. R302; 256 entries; reset empty (FREE) -/
  bindings : List Binding := []
  /-- Recorded COPY sources. R302; reset empty -/
  sources : List CopySrc := []
  /-- CUR and DIRTY bits of the handle and version table. R27, R126; reset empty -/
  ver : List (VerKey × Gran) := []
  /-- SUBMIT_SLICE taken and not finished. R296; reset none -/
  desc : Option SubDesc := none
  /-- Slice in service. R22; reset none -/
  slice : Option Slice := none
  /-- No admission before the next Bell: the slice was killed in this period by KILL, EVICT or teardown, or the context has just
  been swapped in. R95, R102, R107; reset 0 -/
  barred : Bool := false
  /-- Ordered-flow bindings: tag to physical core. R82; reset empty -/
  flows : KMap PCore := []
  /-- Spill cursor. R185, R186; reset 0 (no slice) -/
  spillCursor : Nat := 0
  /-- Spill queue (KIND 4): the items that have not drained, oldest first. R192, R236; reset empty -/
  spillq : List SpillItem := []
  /-- Live items of the spill area. R186; reset 0 -/
  spillLive : Nat := 0
  /-- SPILL_HIGH reported in this slice. R187; reset 0 -/
  spillSaid : Bool := false
  /-- RECOMPUTE_FALLBACK reported in this slice. R187; reset 0 -/
  recompSaid : Bool := false
  /-- Arena cursor, live count and arena handle by physical core. R185, R186; reset empty -/
  arena : KMap (Nat × Nat × Nat) := []
  /-- Running statistics by layer. R199, R200; reset empty -/
  statRun : KMap LayerStat := []
  /-- Committed statistics by layer. R200; reset empty -/
  statCom : KMap LayerStat := []
  /-- Format state by layer. R201; an install sets BF16, RUN 0 (R200) -/
  fmt : KMap FmtSt := []
  /-- Context counters. R363; reset 0 (cleared at OPEN and swap-in, R361) -/
  counters : Tab Nat 32 := Tab.fill 32 0
  /-- Activity of the period. R110; reset 0 -/
  act : Act := {}
  /-- Remainders of the Tally fields. R112; reset 0 -/
  carry : Carry := {}
  /-- Next TALLY_SEQ. R111; reset DESIGN CHOICE 0 (log 2) -/
  tallySeq : W32 := 0
  /-- OUTCOME and EVENT that the period has earned so far. R111; reset none -/
  outcome : Option (Nat × W16) := none
  /-- Tallies that contexts closed in the period have earned, oldest first. R111, Table 5.2; reset empty -/
  closed : List TallyRec := []
  /-- A slice was in service in the period. R111; reset 0 -/
  hadSlice : Bool := false
  /-- Step number of the period's slice before any increment. Table 5.7; reset 0 -/
  tallyStep : W64 := 0
  /-- SEED as written. R319, R322; reset 0 (Table 14.2) -/
  seedReg : W64 := 0
  /-- FREE as written. R319, R322; reset 0 (Table 14.2) -/
  freeReg : Bool := false
  /-- SEED latched for the slices. R322; reset 0 -/
  seed : W64 := 0
  /-- FREE latched for the slices. R322; reset 0 -/
  freeOn : Bool := false
  /-- MKT.CTXQUOTA in force. R89, R90; reset 0 (Table 4.7) -/
  quota : Nat := 0
  /-- MKT.CTXQUOTA last accepted. R90; reset 0 (Table 4.7) -/
  quotaReg : Nat := 0
  /-- Breakpoint set. R350; reset none -/
  brk : Option Brk := none
  /-- The slice waits for a commit decision: the Bell's count. R44, R45; reset none -/
  held : Option Nat := none
  /-- The held member has no decision BEL.GUARD after its Bell. R45; reset 0 -/
  inDoubt : Bool := false
  /-- The deciding chip's decision at the last Bell has not been applied yet: no slice is admitted. R44; reset 0 -/
  awaits : Bool := false
  /-- Votes that the deciding chip holds for the current step: chip numbers. R44; reset empty -/
  votes : List Nat := []
  /-- NACKs of the period. R254; reset 0 -/
  nacks : Nat := 0
  /-- Consecutive blocked Bells. R106; reset 0 -/
  blocked : Nat := 0
  /-- RESUME is rejected. R337, R344, R377; reset 0 -/
  noResume : Bool := false
  /-- The merge of the slice that the context has committed at the last Bell reads its deltas, until the pitch's admission.
  R33, R336; reset 0 -/
  merging : Bool := false
  /-- The image must be reloaded at RESUME. R337; reset 0 -/
  reload : Bool := false
  /-- Eviction in progress. R105; reset none -/
  evict : Option Evict := none
  /-- Swap-in in progress. R107; reset none -/
  swapIn : Option SwapIn := none
  /-- For each copy of a host-memory versioned tensor, by 2 × TENSOR_ID + copy: the completion index of the step that made
  it current. R34 check 5; reset none -/
  madeCurrent : KMap Nat := []
deriving DecidableEq, Repr

/-- What a sequencer is doing. -/
inductive SeqMode where
  /-- No instance, push mode (R214). -/
  | halt
  /-- Blocked in TAKE (R215). -/
  | take
  /-- DONE has ended an instance in a pull-mode pitch, and the TAKE after it is next (R214). -/
  | atTake
  /-- Executing the kernel. -/
  | run
  /-- POST in progress: waits for fill acknowledgements (R212, R130). -/
  | posting (out : Nat) (t : Token) (waits : List PCore)
  /-- DONE in progress: waits for fill acknowledgements (R214, R130). -/
  | ending (waits : List PCore)
  /-- Blocked in WAIT with its immediate and register value (R232). -/
  | wait (imm : W16) (v : W64)
  /-- Blocked in RECV until its command completes (R250). -/
  | recv
  /-- Stopped by a fault or kill, context ending (R216). -/
  | stopped
deriving DecidableEq, Repr

/-- A sequencer (R208). -/
structure Seq where
  /-- Mode. R214 to R216; reset halt (no pitch) -/
  mode : SeqMode := .halt
  /-- s0 to s31. R208; reset DESIGN CHOICE 0 (log 2); set at kernel entry (R211) -/
  s : Tab W64 32 := Tab.fill 32 0
  /-- a0 to a15. R208, R209; reset DESIGN CHOICE 0 (log 2); set at kernel entry (R211) -/
  a : Tab W64 16 := Tab.fill 16 0
  /-- PC, image-relative word. R208; reset DESIGN CHOICE 0 (log 2); KERNEL at entry (R211) -/
  pc : BitVec 14 := 0
  /-- Predicates. R208, R213; reset DESIGN CHOICE 0 (log 2); 0 at entry -/
  preds : W16 := 0
  /-- POSTED mask. R208, R212; reset DESIGN CHOICE 0 (log 2); 0 at entry -/
  posted : W16 := 0
  /-- Arithmetic status: bit 0 INV, 1 OVF, 2 NAN_LOST. R154, R208; reset DESIGN CHOICE 0 (log 2); 0 at entry -/
  arith : BitVec 3 := 0
  /-- Registers that await a command's result. R210; reset none -/
  pend : List Nat := []
  /-- Instance in service. R81; reset none -/
  inst : Option Inst := none
  /-- The instance is pre-emptible. R74; reset 0 -/
  preemptible : Bool := false
  /-- The latest LDW that the instance issued. R225; reset none -/
  ldw : Option LdwP := none
  /-- Releases held until the first POST or DONE: (memory, slot). R129; reset empty -/
  heldRel : List (Nat × Nat) := []
  /-- A POST has been made. R129; reset 0 -/
  anyPost : Bool := false
  /-- Remote cores written since the last POST. R130; reset empty -/
  wrote : List PCore := []
  /-- Inbox that the previous RECV of the instance returned. R250; reset none -/
  lastRecv : Option Nat := none
  /-- A breakpoint was hit and the core drains. R351; reset 0 -/
  brkDrain : Bool := false
  /-- Halted at a breakpoint. R351; reset 0 -/
  brkHalt : Bool := false
  /-- PC that RESUME issues without hitting it again. R352; reset none -/
  skipPc : Option (BitVec 14) := none
  /-- DEBUG RESUME asked for one instruction. R352; reset 0 -/
  stepOne : Bool := false
  /-- The hit's code for the report. R351; reset none -/
  brkCode : Option W16 := none
  /-- The hit was a step. R352; reset 0 -/
  brkStep : Bool := false
  /-- Dispatch record in the dispatch slot, not yet entered. R85, R211; reset none -/
  slot : Option DispatchRec := none
  /-- Number of the next command, counted over the core. R117; reset 0 -/
  cmdNum : Nat := 0
  /-- Statistics of the instance, sent with its retirement. R200; reset empty -/
  stat : LayerStat := {}
  /-- A pre-emption kill from the Market waits at the core. R86; reset 0 -/
  killReq : Bool := false
deriving DecidableEq, Repr

/-- A column-group sweep in progress (R343). -/
structure Sweep where
  bank : Nat
  group : Nat
  next : Nat := 0
  done : Bool := false
deriving DecidableEq, Repr

/-- A physical core. -/
structure Core where
  /-- Logical core served. R10, R116, Table 6.7 LCORE; reset none (0xFF) until the repair map is applied -/
  lcore : Option LCore := none
  /-- Retired by the repair map. R344; reset 0 -/
  retired : Bool := false
  /-- Sequencer. R208; reset as its fields -/
  seq : Seq := {}
  /-- Weight tile that the array holds, with the fields of its LDW. R160; reset none -/
  tile : Option LdwP := none
  /-- Command queues: engine, vector, table, move. R117, 16 entries each; reset empty -/
  queues : Tab (List Cmd) 4 := Tab.fill 4 []
  /-- Instruction memory bytes, 64 KiB. R63, R208; reset 0 (S1 writes zero, Table 17.6) -/
  imem : Memory := []
  /-- Weight memory, 6 MiB. R119, R120; filled with zero at power-up (R135) -/
  weight : Memory := []
  /-- Activation memory, 3 MiB. R119; filled with zero at power-up (R135) -/
  act : Memory := []
  /-- Partial-sum memory, 65,536 entries of 16 bytes. R121; filled with zero at power-up (R135) -/
  psum : Memory := []
  /-- GAB delta half, 131,072 elements of 8 bytes. R119, R120; filled with zero at power-up (R135) -/
  delta : Memory := []
  /-- GAB base half. R119, R120; filled with zero at power-up (R135) -/
  base : Memory := []
  /-- Banks powered and filled. R135, Table 6.7; reset 0 -/
  bankOn : BitVec 24 := 0
  /-- Banks being powered up. R135; reset 0 -/
  bankUp : BitVec 24 := 0
  /-- COR.BANKFORCE as accepted. R136; reset 0 (Table 6.7) -/
  bankForce : BitVec 24 := 0
  /-- Table unit slots. R116, R180; reset empty -/
  tables : Tab (Option TabSlot) 16 := Tab.fill 16 none
  /-- Handle table, 256 entries. R124, R125; reset empty -/
  handles : List HEnt := []
  /-- Presence of the 768 activation slots that are not EMPTY. R127; reset all EMPTY -/
  presA : KMap Pres := []
  /-- Presence of the 256 partial-sum slots that are not EMPTY. R127; reset all EMPTY -/
  presP : KMap Pres := []
  /-- Region state. R170, R171, 1,024 entries; reset empty -/
  regions : List RegSt := []
  /-- Next ordered-release number. R133; reset DESIGN CHOICE 0 (log 2) -/
  nextSeq : W16 := 0
  /-- Number that leaves the mesh port next. R133; reset DESIGN CHOICE 0 (log 2) -/
  nextRel : W16 := 0
  /-- Release buffer, 16 KiB. R133; reset empty -/
  relBuf : List RelItem := []
  /-- Sequence numbers discarded at a teardown. R134; reset empty -/
  relSkip : List W16 := []
  /-- Grant table. R248, 32 entries; reset empty -/
  grants : Tab (Option GrantEnt) 32 := Tab.fill 32 none
  /-- Request queue, held requests included. R253, Table 11.1; reset empty -/
  reqq : List MsgHdr := []
  /-- Requests granted whose payload has not come: the request, its ring unit and the target's generation. R283; reset
  empty -/
  given : List (MsgHdr × Nat × BitVec 12) := []
  /-- Ring inboxes declared on the core. R246; reset none -/
  inboxes : List Inbox := []
  /-- Windows and combining inboxes. R256, R258; reset closed, generation DESIGN CHOICE 0 (log 2) -/
  wins : Tab Win 16 := Tab.fill 16 {}
  /-- The item at the head of the arrivals waits for a credit of the request queue. R238; reset 0 -/
  creditWait : Bool := false
  /-- Items that have reached the core over the mesh and wait to be taken. R249; reset empty -/
  meshIn : List Item := []
  /-- Fill notices that have reached the core, by sender and whether it is a DONE. R130; reset empty -/
  notices : List (PCore × Bool × Slot) := []
  /-- Per-core counters. Table 16.8, R362; reset 0 (R361) -/
  counters : Tab Nat 32 := Tab.fill 32 0
  /-- Corrected errors of a part's CE window and the time of its first, by part number. R341; reset none -/
  ceCount : KMap (Nat × Nat) := []
  /-- Parts whose trigger waits for a Bell, by part number. R341; reset empty -/
  trigger : List Nat := []
  /-- Engine columns replaced: physical column and spare. R341, Table 15.5; reset none -/
  colsUsed : List (Nat × Nat) := []
  /-- Columns with one unconfirmed self-test mismatch. R342; reset empty -/
  suspect : List Nat := []
  /-- Scratch rows replaced: bank, row and spare. R341; reset none -/
  rowsUsed : List (Nat × Nat × Nat) := []
  /-- Column groups replaced: bank and group. R341; reset none -/
  groupsUsed : List (Nat × Nat) := []
  /-- Column-group sweeps. R343; reset none -/
  sweeps : List Sweep := []
deriving DecidableEq, Repr

/-- What the block keeps of an evicted context beside its swap record (log entry 40). -/
structure Parked where
  id : W32
  bindings : List Binding
  sources : List CopySrc
  ver : List (VerKey × Gran)
  group : GroupBlk
deriving DecidableEq, Repr

/-- A pre-emption in flight (R86). -/
structure Preempt where
  victim : Nat
  cand : Nat
  core : PCore
deriving DecidableEq, Repr

/-- The Market. -/
structure Market where
  /-- Task store, 262,144 entries, by index. R71; reset empty -/
  tasks : KMap TaskEnt := []
  /-- Matching store, 65,536 entries, by index. R71; reset empty -/
  matching : KMap MatchEnt := []
  /-- Ready lists, 4 × pitch + level. R80; reset empty -/
  ready : Tab (List Nat) 64 := Tab.fill 64 []
  /-- Market input queues by physical core. R88; reset empty -/
  inq : Tab (List MktMsg) 72 := Tab.fill 72 []
  /-- Arrivals that wait for the matching store. R75, R88; reset empty -/
  arrivals : List Arrival := []
  /-- Pitch at which the rotation of the dispatch slots starts. R84; reset DESIGN CHOICE 0 (log 2) -/
  rotation : Nat := 0
  /-- Number of the next dispatch. R86; reset 0 -/
  order : Nat := 0
  /-- Pre-emption in flight by pitch. R86; reset none -/
  preempt : Tab (Option Preempt) 16 := Tab.fill 16 none
  /-- Core reserved for a candidate by pitch: (core, candidate). R86; reset none -/
  reserved : Tab (Option (PCore × Nat)) 16 := Tab.fill 16 none
  /-- MKT.CTXSEL. R91; reset 0 -/
  ctxSel : Nat := 0
  /-- MKT.PITSEL. R91; reset 0 -/
  pitSel : Nat := 0
  /-- An arrival waits for the pool. R89; reset 0 -/
  poolWait : Bool := false
  /-- MKT.POOLMARGIN. R91; reset 0x0400 -/
  poolMargin : Nat := 0x400
  /-- MKT.SWAPBASE as accepted. R114; reset 0 -/
  swapBaseReg : W64 := 0
  /-- MKT.SWAPBASE in force. R114; reset 0 -/
  swapBase : W64 := 0
  /-- MKT.SWAPCOUNT as accepted. R114; reset 0 -/
  swapCountReg : Nat := 0
  /-- MKT.SWAPCOUNT in force. R114; reset 0 -/
  swapCount : Nat := 0
  /-- Record at which the next Bell's rotation starts. R104 (32 records a Bell); reset DESIGN CHOICE 0 (log 2) -/
  swapPtr : Nat := 0
  /-- Records last found runnable: index, PRIO, PITCH. R106; reset empty -/
  runnable : List (Nat × Nat × Nat) := []
  /-- Swap-ins decided for the next Bell: record and slot. R106; reset empty -/
  swapPlan : List (Nat × Slot) := []
  /-- Swap-ins whose Bell has come, or whose slot an eviction has freed. R106; reset empty -/
  swapNow : List (Nat × Slot) := []
  /-- What the block keeps of an evicted context beside its swap record, by record index: the binding table, CUR of its
  off-block tensors and its COPY sources (R105, R107, R302; log 40); reset empty -/
  parked : KMap Parked := []
  /-- Epochs of the shared queue instances, by instance identifier. R241; reset DESIGN CHOICE 0 (log 2) -/
  epochs : KMap Nat := []
  /-- Spare rows used in the task store, matching store and edge memory: row and spare. R341; reset none -/
  rowsUsed : List (Nat × Nat × Nat) := []
  /-- Corrected errors of a row's CE window and the time of its first, by 32,768 × store + row. R341; reset none -/
  ceCount : KMap (Nat × Nat) := []
  /-- Market rows whose trigger waits for a Bell. R341; reset empty -/
  trigger : List Nat := []
deriving DecidableEq, Repr

/-- A token bucket of a pitch (R100): its register as accepted, in force, the count in 1/256 unit, and whether a write waits
for its Bell. -/
structure Bucket where
  reg : W32 := 0
  live : W32 := 0
  count : Nat := 0
  wrote : Bool := false
deriving DecidableEq, Repr

/-- A fabric image install in progress (R393): 0 scan, 1 install, 2 check. -/
structure Install where
  comp : CompRef
  addr : Nat
  frames : Nat
  phase : Nat
  bad : Bool := false
  crc : W32 := 0
  check : W32 := 0
deriving DecidableEq, Repr

/-- A pitch (R97, R99). -/
structure PitchSt where
  /-- Installed mask. R97; reset 0 -/
  mask : W64 := 0
  /-- PIT.CORES_LO staged. R97; reset 0 -/
  stagedLo : W32 := 0
  /-- PIT.CORES_HI staged. R97; reset 0 -/
  stagedHi : W32 := 0
  /-- STATE: 0 EMPTY, 1 UNCONFIGURED, 2 CONFIGURED, 3 INSTALLING. R99; reset 0 -/
  state : Nat := 0
  /-- PIT.RDREG and its bucket. R100; reset 0 -/
  rd : Bucket := {}
  /-- PIT.WRREG and its bucket. R100; reset 0 -/
  wr : Bucket := {}
  /-- PIT.TXREG and its bucket. R100; reset 0 -/
  tx : Bucket := {}
  /-- PIT.EVICT as accepted. R99; reset 0x004 -/
  evictReg : BitVec 9 := 0x004
  /-- PIT.EVICT in force. R99, Table 19.4 next Bell; reset 0x004 -/
  evict : BitVec 9 := 0x004
  /-- MKT.PITMODE as accepted: RANKED, PULL, PREEMPT. R90, R91; reset 0 -/
  modeReg : BitVec 3 := 0
  /-- MKT.PITMODE in force. R90; reset 0 -/
  mode : BitVec 3 := 0
  /-- Fabric install in progress. R393; reset none -/
  install : Option Install := none
  /-- The Bell left admission due for the pitch. R31, R34; reset 0 -/
  admitDue : Bool := false
  /-- Bounds admitted in the period: slot, A, F. R34 check 6; reset empty -/
  admitted : List (Slot × Nat × Nat) := []
deriving DecidableEq, Repr

/-- The Bell (R18, R21). -/
structure BellSt where
  /-- BEL.CTRL.EN. R21; reset 0 -/
  en : Bool := false
  /-- BEL.CTRL.MASTER. R21; reset 0 -/
  master : Bool := false
  /-- BEL.CTRL.LINKED. R21; reset 0 -/
  linked : Bool := false
  /-- BEL.CTRL.UPSTREAM. R21; reset 0 -/
  upstream : LPort := 0
  /-- BEL.CTRL.STOP_AT_BELL. R21, R46; reset 0 -/
  stopAt : Bool := false
  /-- BEL.PERIOD as accepted. R19; reset 0xF_4240 -/
  periodReg : Nat := 0xF4240
  /-- Length of the period in progress. R18, R20; reset 0xF_4240 -/
  period : Nat := 0xF4240
  /-- On a master, the period that the marker sent for the next Bell announced. R42; reset 0xF_4240 -/
  periodNext : Nat := 0xF4240
  /-- BEL.RESERVE as accepted. R21; reset 0x03E8 -/
  reserveReg : Nat := 0x3E8
  /-- BEL.RESERVE in force. R415; reset 0x03E8 -/
  reserve : Nat := 0x3E8
  /-- BEL.GUARD as accepted. R21; reset 0x07D0 -/
  guardReg : Nat := 0x7D0
  /-- BEL.GUARD in force. R415; reset 0x07D0 -/
  guard : Nat := 0x7D0
  /-- BEL.STATUS.MARKER_MISSED. R43; reset 0 -/
  markerMissed : Bool := false
  /-- BEL.STATUS.LOCKED. R40; reset 0 -/
  locked : Bool := false
  /-- BEL.STATUS.STOPPED. R46; reset 0 -/
  stopped : Bool := false
  /-- BEL.STATUS.RUNNING. R21; reset 0 -/
  running : Bool := false
  /-- BEL.COUNT. R18; reset 0 -/
  count : W64 := 0
  /-- Time-stamp of the previous Bell. R18; reset 0 -/
  last : Nat := 0
  /-- The marker received for the next Bell: local time, period after it, stop. R42, R282; reset none -/
  marker : Option (Nat × Nat × Bool) := none
  /-- Consecutive missed markers. R43; reset 0 -/
  missed : Nat := 0
  /-- A master sent the marker of the next Bell with the stop request. R46; reset 0 -/
  stopSent : Bool := false
  /-- Time from which the master's BARRIER is due again. R282; reset 0 -/
  barrierAgain : Nat := 0
  /-- BARRIER in progress: master time-stamp and local time of Bell 0. R40, R387; reset none -/
  barrier : Option (Nat × Nat) := none
  /-- Time at which EN was set, while the start barrier is awaited. R40, R41; reset none -/
  awaiting : Option Nat := none
  /-- The marker of the next Bell has been missed: one that comes later is ignored. R43; reset 0 -/
  missSaid : Bool := false
  /-- BARRIER_WAIT or ZREADY_TIMEOUT reported once. R41, R387; reset 0 -/
  waitSaid : Bool := false
  /-- Admissions, installs and later actions of the Bell are due. R31; reset 0 -/
  open_ : Bool := false
  /-- Slots whose image install is due at this Bell, ascending. R65; reset empty -/
  installs : List Slot := []
  /-- Kernel places kept for the installs that wait for their banks, by slot. R65, R135; reset empty -/
  waitAt : KMap Nat := []
  /-- Slices committed, overruns, kills and admissions since the last BELL record. Table 16.10; reset 0 -/
  tallyCounts : Nat × Nat × Nat × Nat := (0, 0, 0, 0)
deriving DecidableEq, Repr

/-- A link-control slot that has been received and waits for its row: the slot and the time in 1/16 ns. -/
structure CtlIn where
  slot : BitVec 256
  t : Nat
deriving DecidableEq, Repr

/-- A transmitted VC2 item in progress (R267): the slots that remain, and its context slot. -/
structure TxOpen where
  rest : List (BitVec 256)
  sent : Nat
  item : Item
  forwarded : Bool
deriving DecidableEq, Repr

/-- The VC2 item that a port receives (R267, R268): the item so far, the slots still to come, and the port to which it is
forwarded (none: it is for this chip, or it is dropped). -/
structure RxOpen where
  item : Item
  left : Nat
  fwd : Option LPort
deriving DecidableEq, Repr

/-- A lane exchange (R278): the physical lane replaced, the codewords at which this end's transmit direction and its
receive direction move (none: the peer has not answered), and which of them have moved. -/
structure LaneSwap where
  lane : Nat
  txAt : Nat
  rxAt : Option Nat
  txDone : Bool := false
  rxDone : Bool := false
deriving DecidableEq, Repr

/-- A link port (R262). -/
structure Port where
  /-- LNK.CTRL.EN. R286; reset 0 -/
  en : Bool := false
  /-- LNK.CTRL.SPARE_AUTO. R286; reset 1 -/
  spareAuto : Bool := true
  /-- LNK.CTRL.DEGRADE_OK. R286; reset 1 -/
  degradeOk : Bool := true
  /-- LNK.CTRL.LOOP. R286; reset 0 -/
  loop : Nat := 0
  /-- LNK.STATUS.STATE. R274; reset 0 -/
  state : Nat := 0
  /-- LNK.STATUS.WIDTH. R286; reset 0 -/
  width : Nat := 0
  /-- LNK.STATUS.PEER_CHIP. R286; reset 0 -/
  peer : Nat := 0
  /-- LNK.LANEMAP. R286; reset 0x7654_3210 -/
  laneMap : W32 := 0x76543210
  /-- LNK.PHYLAT as accepted. R286; reset 0 -/
  phylatReg : W32 := 0
  /-- LNK.PHYLAT in force. Table 19.4; reset 0 -/
  phylat : W32 := 0
  /-- LNK.REPLAY. R286; reset 0x8_07D0 -/
  replayReg : W32 := 0x807D0
  /-- SEQ of the next DATA group. R265; reset 0 (R277) -/
  seq : BitVec 12 := 0
  /-- Replay buffer, 256 DATA groups. R273; reset empty -/
  replay : List (BitVec 12 × Group) := []
  /-- Groups of the replay buffer still to be sent again. R273; reset empty -/
  resend : List (BitVec 12) := []
  /-- Replays without an advance of ACK. R273; reset 0 -/
  idleReplays : Nat := 0
  /-- ACK named by the NAK whose replay is in progress. R273; reset none -/
  nakAck : Option (BitVec 12) := none
  /-- Replays in the Bell period. R273; reset 0 -/
  replays : Nat := 0
  /-- SEQ of the last DATA group received in order. R272; reset 0xFFF (R277: the first SEQ is 0) -/
  lastGood : BitVec 12 := 0xFFF
  /-- A NAK has been asked for since the last group in order. R272; reset 0 -/
  nakSent : Bool := false
  /-- That NAK waits for the next group sent. R272; reset 0 -/
  nakDue : Bool := false
  /-- Slots sent per virtual channel, modulo 4,096. R268; reset 0 -/
  sent : Tab (BitVec 12) 3 := Tab.fill 3 0
  /-- Peer's last CREDITS per channel. R268; reset 0 -/
  credits : Tab (BitVec 12) 3 := Tab.fill 3 0
  /-- Slots freed per channel, modulo 4,096. R268; reset 0 -/
  freed : Tab (BitVec 12) 3 := Tab.fill 3 0
  /-- Counts last reported per channel. R268; reset 0 -/
  reported : Tab (BitVec 12) 3 := Tab.fill 3 0
  /-- Channel whose count was reported last. R268; reset DESIGN CHOICE 0 (log 2) -/
  cvc : Nat := 0
  /-- Items that wait to be sent on VC0, VC1. R267; reset empty -/
  vc0 : List Item := []
  /-- As above for VC1. R267; reset empty -/
  vc1 : List Item := []
  /-- VC2 items by source, in arrival order: source 0 to 15 local pitches, 16 + q port q. R269; reset empty -/
  vc2 : List (Nat × Item) := []
  /-- VC2 source served last. R269; reset DESIGN CHOICE 0 (log 2) -/
  vc2Last : Nat := 0
  /-- The open VC2 item. R267; reset none -/
  txOpen : Option TxOpen := none
  /-- Timed link-control slots due. R280; reset empty -/
  timed : List (BitVec 256) := []
  /-- Reliable link-control slots due. R280; reset empty -/
  reliable : List (BitVec 256) := []
  /-- The VC2 item being received. R267; reset none -/
  rxOpen : Option RxOpen := none
  /-- Slots delivered in order that the receive buffers hold while the block is stopped: kind and slot. R268, R355;
  reset empty -/
  rxHeld : List (Nat × BitVec 256) := []
  /-- Received link-control slots that wait for their row. R280; reset empty -/
  ctlIn : List CtlIn := []
  /-- Time-sync results, newest first: offset, delay, time. R281; reset empty -/
  tsync : List (Int × Int × Int) := []
  /-- Consecutive discarded results. R281; reset 0 -/
  tsDiscards : Nat := 0
  /-- Accepted results since training began. R274; reset 0 -/
  tsCount : Nat := 0
  /-- t1 of the outstanding TSYNC_REQ. R281; reset none -/
  tsT1 : Option Nat := none
  /-- TRAIN groups sent since LOCK, modulo 256. Table 12.9; reset 0 -/
  trainCount : BitVec 8 := 0
  /-- Last good TRAIN record of the peer. R275; reset none -/
  trainRx : Option (BitVec 256) := none
  /-- Good TRAIN groups that acknowledge this end. R275; reset 0 -/
  trainAcks : Nat := 0
  /-- LKp_RXLOCK_l by physical lane. R263; reset 0 -/
  rxlock : BitVec 9 := 0
  /-- Consecutive codewords of zero syndrome in ALIGN. R274; reset 0 -/
  aligned : Nat := 0
  /-- Failure: training waits 1 ms. R274; reset 0 -/
  failed : Bool := false
  /-- The port is in a retrain from service. R276; reset 0 -/
  retraining : Bool := false
  /-- Lane exchange in progress. R278; reset none -/
  swap : Option LaneSwap := none
  /-- Groups sent, from which the transmit codeword count follows (R264, R265). R278; reset 0 -/
  txGroups : Nat := 0
  /-- Physical lanes that carry the port's symbols, once EXCHANGE has chosen them. R274; reset none -/
  used : BitVec 9 := 0
  /-- Time at which the present state was entered. R274; reset 0 -/
  since : Nat := 0
  /-- Time of the last advance of ACK, or of the first unacknowledged group after it. R273; reset 0 -/
  ackAt : Nat := 0
  /-- Time from which the next TSYNC_REQ is due. R281; reset 0 -/
  tsNext : Nat := 0
  /-- Groups on their way through the near loop, each with the bit of a codeword's data field at which it starts. R279;
  reset empty -/
  loopBack : List (Nat × Group) := []
  /-- Corrected symbols of a physical lane's CE window and the time of its first. R341; reset none -/
  laneCe : KMap (Nat × Nat) := []
  /-- Latest margin per physical lane in mV. Table 15.6; reset none -/
  margin : KMap Nat := []
  /-- PRBS31 state of the transmitter. R279; reset all ones, PRESUMED (log 30) -/
  prbs : BitVec 31 := 0x7FFFFFFF
  /-- PRBS31 state of the receiver's check. R279; reset as the transmitter's, PRESUMED (log 30) -/
  prbsRx : BitVec 31 := 0x7FFFFFFF
  /-- What the port drives: the last group sent. R263; reset none -/
  out : Option Group := none
  /-- Data symbols of the codeword that the port fills. R264; reset empty -/
  txData : List (BitVec 10) := []
  /-- The last codeword that the port has sent, in the order sent. R264; reset empty -/
  codeword : List (BitVec 10) := []
  /-- The codeword before it, whose last symbols share a lane word with its first. R263; reset empty -/
  before : List (BitVec 10) := []
  /-- Codewords sent. R263; reset 0 -/
  words : Nat := 0
deriving DecidableEq, Repr

/-- The host unit (R311). -/
structure HostSt where
  /-- HST.CTRL.EN. R311; reset 0 -/
  en : Bool := false
  /-- HST.CTRL.SLEEP_EN. R311; reset 0 -/
  sleepEn : Bool := false
  /-- HST.STATUS.ADMIN_HALT. R310; reset 0 -/
  halt : Bool := false
  /-- HST.STATUS.SLEEPING. R294; reset 0 -/
  sleeping : Bool := false
  /-- HST.SLEEP.IDLE_BELLS. R311; reset 0x10 -/
  idleBells : Nat := 0x10
  /-- HST.SPASID. R311; reset 0 -/
  spasid : W32 := 0
  /-- HST.SHADOW. R311; reset 0 -/
  shadow : W64 := 0
  /-- HST.ADB. R311; reset 0 -/
  adb : W64 := 0
  /-- HST.ASQ. R311; reset 0 -/
  asq : W64 := 0
  /-- HST.ACQ. R311; reset 0 -/
  acq : W64 := 0
  /-- HST.EVQ. R311; reset 0 -/
  evq : W64 := 0
  /-- HST.TLQ. R311; reset 0 -/
  tlq : W64 := 0
  /-- HST.RSIZE. R311; reset 0x0606_0606 -/
  rsize : W32 := 0x06060606
  /-- HST.AGEN. R311; reset 0 -/
  agen : BitVec 12 := 0
  /-- HST.MSIX_A. R311; reset 0 -/
  msixA : W32 := 0
  /-- HST.MSIX_B. R311; reset 0 -/
  msixB : W32 := 0
  /-- Admin ring pointers. R293; reset DESIGN CHOICE 0 (log 2) -/
  ring : RingSt := {}
  /-- Event ring tail and head. R289, R293; reset DESIGN CHOICE 0 (log 2) -/
  evTail : Nat := 0
  /-- As above. -/
  evHead : Nat := 0
  /-- Tally ring tail and head. R289, R293; reset DESIGN CHOICE 0 (log 2) -/
  tlTail : Nat := 0
  /-- As above. -/
  tlHead : Nat := 0
  /-- Interrupt bookkeeping of the event ring. R309; reset not raised -/
  evIrq : Irq := {}
  /-- Interrupt bookkeeping of the Tally ring. R309; reset not raised -/
  tlIrq : Irq := {}
  /-- SUBMIT_SLICE descriptors taken so far: the order in which they were read. R34; reset 0 -/
  submits : Nat := 0
  /-- Consecutive idle Bells. R294; reset 0 -/
  idle : Nat := 0
  /-- A ring advanced at a poll since the last Bell. R294; reset 0 -/
  advanced : Bool := false
  /-- SLEEPING has been written and the second poll is due. R294; reset 0 -/
  sleepArm : Bool := false
  /-- Shadow status SEQ. R295; reset DESIGN CHOICE 0 (log 2) -/
  shadowSeq : W32 := 0
  /-- Requested MSI-X vectors that wait for HP_MSI_READY. R309, R404; reset empty -/
  msi : List (BitVec 11) := []
  /-- A FENCE of the admin ring that blocks the ring, with QUIET slot. R303; reset none -/
  fence : Option (CompRef × Option Slot) := none
deriving DecidableEq, Repr

/-- A completion that waits for a condition (R298, R302, R303, R305). -/
inductive WaitFor where
  /-- every write that carries this completion has been acknowledged -/
  | writes
  /-- the context has no slice in service, then the fence completes -/
  | quiet (s : Slot)
  /-- BIND, UNBIND or COPY of the descriptor waits until the context has no slice in service -/
  | tensor (s : Slot) (d : List Byte)
  /-- CLOSE waits until the completions of the slot's SUBMIT_SLICE and LOAD_IMAGE are written, then the slot is FREE -/
  | close (s : Slot)
deriving DecidableEq, Repr

/-- A completion held back, with its contents (R298). -/
structure HeldComp where
  comp : CompRef
  code : W16 := 0
  step : W64 := 0
  vbuf : W32 := 0
  waitFor : WaitFor := .writes
deriving DecidableEq, Repr

/-- Whose write is outstanding at a port (R401). -/
inductive WOwner where
  /-- a durable or off-block write of a slice, by slot, core and command number -/
  | slice (s : Slot) (core : PCore) (num : Nat)
  /-- a write of a core's STASH or SLOAD: a directory entry or a spilled item -/
  | spill (s : Slot) (core : PCore)
  /-- a write that a descriptor's completion waits for -/
  | desc (c : CompRef)
  /-- a completion entry -/
  | comp (r : Ring)
  /-- an event record -/
  | event (torn : Bool)
  /-- a Tally -/
  | tally
  /-- the shadow status, and whether it said SLEEPING -/
  | shadow (sleeping : Bool)
  /-- the write-back of an eviction -/
  | evict (s : Slot)
  /-- the block's own write of a swap record or a seed entry -/
  | record
  /-- a reset has ended its owner; the acknowledgement frees its tag (R400) -/
  | gone
  /-- the soft repair map -/
  | rmap
deriving DecidableEq, Repr

/-- A write that has no acknowledgement yet (R400, R401): port 16 is the host port. `pasid` is the address-space tag of the
request, none where its owner's PASID is not enabled (R310); `waits` marks one that is not sent yet, since every write tag of its port
is in use or an earlier write of one of its 64-byte units is outstanding; `since` is the fabric cycle of its request, and `late`
marks a response entered as overdue (Table 16.5). A write is one beat; `data` are its bytes while they are not in place, `units` the
64-byte units that the beat carries, and `chk` their check bits (R402). -/
structure OutWrite where
  port : Fin 17
  tag : BitVec 8
  addr : Nat
  owner : WOwner
  pasid : Option (BitVec 20) := none
  chk : List (BitVec 16) := []
  len : Nat := 64
  waits : Bool := false
  since : Nat := 0
  late : Bool := false
  data : List Byte := []
  units : List Byte := []
deriving DecidableEq, Repr

/-- A read as the port asked for it (R400): its first byte, its length, and the address-space tag of its owner (R310). -/
structure ReadReq where
  addr : Nat
  len : Nat
  pasid : Option (BitVec 20)
deriving DecidableEq, Repr

/-- An event as reported (R307). -/
structure Report where
  code : W16
  slot : Nat := 0x7F
  origin : W16 := 0
  detail : BitVec 128 := 0
  core : Option PCore := none
deriving DecidableEq, Repr

/-- A coalescing window (R339, R423). -/
structure CoWindow where
  code : W16
  origin : W16
  slot : Nat
  ctxId : W32
  time : Nat
  bell : W64
  step : W64
  detail : BitVec 128
  reporters : Nat
  mask : BitVec 72
  first : Nat
  torn : Bool
deriving DecidableEq, Repr

/-- Event and Tally egress (R308, Table 11.1). -/
structure EvSt where
  /-- Open coalescing windows, oldest first, 16 at most. R339; reset empty -/
  windows : List CoWindow := []
  /-- Event records that wait in the egress, high priority level. R308, R240; reset empty -/
  high : List CoWindow := []
  /-- Event records of class 0x1. R308, R240; reset empty -/
  low : List CoWindow := []
  /-- Events lost and not yet recorded. R308; reset 0 -/
  lost : Nat := 0
  /-- Tallies that wait in the egress. R308; reset empty -/
  tallies : List (List Byte) := []
  /-- Tallies lost and not yet reported. R308; reset 0 -/
  tlost : Nat := 0
  /-- Corrected errors of the period by origin: count, word address, symbol. R334; reset empty -/
  ce : KMap (Nat × Nat × Nat) := []
  /-- Completions that wait for a condition or an acknowledgement. R298; reset empty -/
  held : List HeldComp := []
deriving DecidableEq, Repr

/-- Core substitution in progress (R344): decided at a Bell, copied at the next. -/
structure Subst where
  lcore : LCore
  old : PCore
  new : PCore
  copying : Bool := false
  copied : Bool := false
deriving DecidableEq, Repr

/-- Error unit (R348). -/
structure ErrSt where
  /-- ERR.CTRL: SELFTEST_EN, POLICY_EN, SCRUB_EN. R348; reset 0x7 -/
  ctrl : BitVec 3 := 0x7
  /-- ERR.STATUS.FATAL. R337; reset 0 -/
  fatal : Bool := false
  /-- ERR.STATUS.RMAP_DIRTY. R347; reset 0 -/
  dirty : Bool := false
  /-- ERR.SCRUB.FORCE. R348; reset 0x10 -/
  force : Nat := 0x10
  /-- Next word of each RAM array's scrubber, by array number. R335; reset DESIGN CHOICE 0 (log 2) -/
  scrubAt : KMap Nat := []
  /-- ERR.SELFTEST.PERIOD. R348; reset 0x003C -/
  selftest : Nat := 0x3C
  /-- ERR.CEWIN as accepted. R348; reset 0xE10 -/
  cewinReg : W32 := 0xE10
  /-- ERR.CEWIN in force. Table 19.4; reset 0xE10 -/
  cewin : W32 := 0xE10
  /-- ERR.THR_SCR as accepted. R348; reset 0x0100_0010 -/
  thrScrReg : W32 := 0x01000010
  /-- ERR.THR_SCR in force; reset 0x0100_0010 -/
  thrScr : W32 := 0x01000010
  /-- ERR.THR_MKT as accepted. R348; reset 0x0010 -/
  thrMktReg : W16 := 0x10
  /-- ERR.THR_MKT in force; reset 0x0010 -/
  thrMkt : W16 := 0x10
  /-- ERR.THR_LANE as accepted. R348; reset 0x0014_0400 -/
  thrLaneReg : W32 := 0x00140400
  /-- ERR.THR_LANE in force; reset 0x0014_0400 -/
  thrLane : W32 := 0x00140400
  /-- ERR.AGING.MIN as accepted. R348; reset 0x0019 -/
  agingReg : W16 := 0x19
  /-- ERR.AGING.MIN in force; reset 0x0019 -/
  aging : W16 := 0x19
  /-- ERR.RMAP. R348; reset 0 -/
  rmap : W64 := 0
  /-- ERR.RMAPSEQ: SEQ of the last map written. R347; reset 0 -/
  rmapSeq : W64 := 0
  /-- Soft repair map in force. R346; reset empty -/
  soft : List W64 := []
  /-- SEQ of the soft map in force. R347, R390; reset DESIGN CHOICE 0 (log 2) -/
  softSeq : W64 := 0
  /-- Hard repair map read from the fuses. R346, R407; reset empty -/
  hard : List W64 := []
  /-- Parts whose exhaustion has been reported, as Table 15.5 entries. R345; reset empty -/
  exhausted : List W64 := []
  /-- Core substitution in progress. R344; reset none -/
  subst : Option Subst := none
  /-- Cores whose substitution is wanted at the next Bell: core, with copy. R341, R340; reset empty -/
  want : List (PCore × Bool) := []
  /-- Logical cores with no physical core. R344; reset empty -/
  absent : List LCore := []
deriving DecidableEq, Repr

/-- A hang ring (R359): the last 64 events, oldest first, and how many were ever written. -/
structure HangRing where
  last : List (BitVec 128) := []
  count : Nat := 0
deriving DecidableEq, Repr

/-- Debug unit (R356). -/
structure DbgSt where
  /-- DBG.STATUS.STOPPED_NOW. R354; reset 0 -/
  stopped : Bool := false
  /-- DBG.STATUS.SMEAR. R354; reset 0 -/
  smear : W16 := 0
  /-- A stop-now has been requested and not yet taken. R354; reset 0 -/
  stopReq : Bool := false
  /-- Stop table: ORIGIN, SUBUNIT, stop time-stamp. R354; reset DESIGN CHOICE empty (log 2) -/
  stopTable : List (W16 × BitVec 4 × Nat) := []
  /-- Time at which the stop was taken. R355; reset 0 -/
  stopAt : Nat := 0
  /-- Time since which cores of a BELL_HOLD context have been halted. R353; reset none -/
  holdFrom : Option Nat := none
  /-- Hang rings by 16 × ORIGIN + SUBUNIT. R359; reset empty -/
  hang : KMap HangRing := []
deriving DecidableEq, Repr

/-- The time-driven counters of a physical core (R360 to R362, Table 16.8), and the model's own account of how far the work that
its commands have counted runs ahead of the clock (log entry 56). -/
structure CycSt where
  /-- ENG_STALL. R360; reset 0 -/
  stall : Nat := 0
  /-- ENG_IDLE. R360; reset 0 -/
  idle : Nat := 0
  /-- Stall cycles by reason 1 to 12. Table 16.6; reset 0 -/
  reasons : Tab Nat 12 := Tab.fill 12 0
  /-- SEQ_STALL. Table 16.8; reset 0 -/
  seqStall : Nat := 0
  /-- SEQ_BLOCKED. Table 16.8; reset 0 -/
  seqBlocked : Nat := 0
  /-- PC_SAMPLES. Table 16.8; reset 0 -/
  samples : Nat := 0
  /-- Busy array cycles counted whose time has not gone by yet. The MODEL'S own; reset DESIGN CHOICE 0 (log 56) -/
  engAhead : Nat := 0
  /-- ENG_BUSY when the clock last moved. The MODEL'S own; reset DESIGN CHOICE 0 (log 56) -/
  engSeen : Nat := 0
  /-- Instructions issued whose fabric cycle has not gone by yet. The MODEL'S own; reset DESIGN CHOICE 0 (log 56) -/
  seqAhead : Nat := 0
  /-- SEQ_ISSUED when the clock last moved. The MODEL'S own; reset DESIGN CHOICE 0 (log 56) -/
  seqSeen : Nat := 0
deriving DecidableEq, Repr

/-- Counters of the whole block (R362) and their registers (R364). -/
structure CntSt where
  /-- Time-driven counters of each physical core. R360 to R362, Table 16.8; reset 0 (R361) -/
  cyc : Tab CycSt 72 := Tab.fill 72 {}
  /-- CNT.CTRL.DETAIL. R364; reset 0 -/
  detail : Bool := false
  /-- CNT.SEL. R364; reset 0 -/
  sel : W32 := 0
  /-- Global counters outside the cores, by number. R362; reset 0 (R361) -/
  globals : KMap Nat := []
deriving DecidableEq, Repr

/-- Trace unit (R371). -/
structure TrcSt where
  /-- TRC.CTRL.EN. R371; reset 0 -/
  en : Bool := false
  /-- TRC.CTRL.POLICY. R368; reset 0 -/
  policy : Nat := 0
  /-- TRC.CTRL.PORT_EN. R370; reset 0 -/
  portEn : Bool := false
  /-- TRC.KINDS [12:1]. R371; reset 0x0CC7 -/
  kinds : BitVec 12 := 0xCC7
  /-- TRC.TRIGSRC. R369; reset 0 -/
  src : Nat := 0
  /-- TRC.TRIGVAL. R369; reset 0 -/
  val : W32 := 0
  /-- TRC.POST. R371; reset 0x1_0000 -/
  post : Nat := 0x10000
  /-- TRC.PCSAMP.P. R367; reset 0 -/
  pcsamp : Nat := 0
  /-- TRC.LINKSAMP.K. R367; reset 0x8 -/
  linksamp : Nat := 8
  /-- TRC.STATUS.FROZEN. R368; reset 0 -/
  frozen : Bool := false
  /-- TRC.STATUS.TRIGGERED. R369; reset 0 -/
  triggered : Bool := false
  /-- TRC.LOST. R368; reset 0 -/
  lost : W64 := 0
  /-- Records lost since the previous loss item. R368; reset 0 -/
  lostSince : Nat := 0
  /-- Records lost in the Bell period, for TRACE_LOSS. R368; reset 0 -/
  lostBell : Nat := 0
  /-- Records still to be made after the trigger under FREEZE. R368; reset none -/
  left : Option Nat := none
  /-- The open packet, records in order. R366; reset empty -/
  packet : List (List Byte) := []
  /-- The trace ring: whole items of 64-byte units, oldest first. R366; reset empty -/
  ring : List (List Byte) := []
  /-- Bytes of the head item already sent on the port. R370; reset 0 -/
  beat : Nat := 0
  /-- A closed packet held for room under HOLD. R368; reset none -/
  heldPkt : Option (List Byte) := none
  /-- Records that their units hold, stalled, while the trace unit accepts none. R368; reset empty -/
  stalled : List (List Byte) := []
  /-- Time at which the first record of the open packet reached it. R366; reset DESIGN CHOICE 0 (log 2) -/
  firstAt : Nat := 0
  /-- Time of the last SYNC. R326; reset DESIGN CHOICE 0 (log 2) -/
  syncAt : Nat := 0
  /-- Epoch of the trace egress. R241; reset DESIGN CHOICE 0 (log 2) -/
  epoch : BitVec 12 := 0
  /-- The beat driven on TRC_D. R370; reset none (park) -/
  out : Option (BitVec 128) := none
deriving DecidableEq, Repr

/-- A change of the array clock (R376, R381), and the time at which its raise or its gating began. -/
structure Trans where
  target : Nat
  waitVok : Bool
  oldVid : Nat
  fromClk : Nat
  since : Nat := 0
deriving DecidableEq, Repr

/-- Power and clocks (R395). -/
structure PwrSt where
  /-- Array clock in force, 100 MHz units. R395 ACLK; reset 0x0C -/
  aclk : Nat := 0x0C
  /-- Transition in progress. R381; reset none -/
  trans : Option Trans := none
  /-- The target last set (R382): only a change of it starts a transition. R382; reset 0x0C, the clock in force -/
  goal : Nat := 0x0C
  /-- PWR.VID. R395; reset 0 (parked) -/
  vid : Nat := 0
  /-- PWR.ACLK.TARGET. R395; reset 0x1E -/
  target : Nat := 0x1E
  /-- PWR.THROTTLE.TARGET. R395; reset 0 -/
  throttle : Nat := 0
  /-- PWR.EMERG.CLK. R395; reset 0x0C -/
  emergReg : Nat := 0x0C
  /-- PWR.THERM as accepted: SOFTCLK, TSOFT. R395; reset 0x14, 0x5F -/
  softClkReg : Nat := 0x14
  /-- As above. -/
  tsoftReg : Nat := 0x5F
  /-- SOFTCLK in force. Table 19.4; reset 0x14 -/
  softClk : Nat := 0x14
  /-- TSOFT in force; reset 0x5F -/
  tsoft : Nat := 0x5F
  /-- PWR.MUX.FORCE_B. R395; reset 0 -/
  forceB : Bool := false
  /-- PWR.MUX.AUTO_RETURN. R395; reset 1 -/
  autoReturn : Bool := true
  /-- PWR.STATUS.CTL_SRC. R378; reset 0 -/
  onB : Bool := false
  /-- VDD_CTL_B at or above 0.68 V. R395 CTL_B_OK; reset 0 -/
  bOk : Bool := false
  /-- CTL_BACKUP_LOW reported and not re-armed. R378; reset 0 -/
  bLowSaid : Bool := false
  /-- TLOCK. R395; reset 0 -/
  tlock : Bool := false
  /-- FLOCK. R395; reset 0 -/
  flock : Bool := false
  /-- ALOCK. R395; reset 0 -/
  alock : Bool := false
  /-- ARY_VOK. R395; reset 0 -/
  vok : Bool := false
  /-- ARY_PG. R395; reset 0 -/
  aryPg : Bool := false
  /-- MEM_PG. R395; reset 0 -/
  memPg : Bool := false
  /-- Hottest junction, degrees. R395 TEMP; reset 0 -/
  temp : Nat := 0
  /-- Soft thermal request raised. R382; reset 0 -/
  soft : Bool := false
  /-- Time since which every reading has been below TSOFT − 5. R382; reset none -/
  softLow : Option Nat := none
  /-- Time since which every reading has been below 100 °C. R382; reset none -/
  thermLow : Option Nat := none
  /-- Time at which the relock of the A-loop in progress began. R380; reset 0 -/
  relockAt : Nat := 0
  /-- PWR_EMERG_N request raised, with its target. R382; reset none -/
  emergPin : Option Nat := none
  /-- Thermal emergency raised. R382; reset 0 -/
  emergTherm : Bool := false
  /-- ARY_VOK emergency raised. R382; reset 0 -/
  emergVok : Bool := false
  /-- The array clock is gated for a relock or a supply loss. R377, R380; reset 0 -/
  gated : Bool := false
  /-- A supply was lost in service, and S6 has not released the outputs since. R377, R384; reset 0 -/
  lost : Bool := false
deriving DecidableEq, Repr

/-- A step of the start-up order (R386): action 0 LOCK, 1 PARK, 2 SETRESET, 3 WRITE. -/
structure OrderStep where
  domain : Nat
  action : Nat
  delay : Nat
deriving DecidableEq, Repr

/-- The reset scopes that run stages (Table 17.5). -/
inductive Scope where
  | cold | warm | soft
deriving DecidableEq, Repr

/-- State of one domain of the start-up order (R386): clock enabled, isolation released, reset released, writes on. -/
structure Domain where
  lock : Bool := false
  unparked : Bool := false
  released : Bool := false
  write : Bool := false
deriving DecidableEq, Repr

/-- Start-up, personality, fuses and CFG registers. -/
structure CfgSt where
  /-- CFG.STARTUP.STAGE. R391; reset 0 -/
  stage : Nat := 0
  /-- Time at which the stage began. R385, R388; reset 0 -/
  stageAt : Nat := 0
  /-- CFG.STARTUP.DONE. R391; reset 0 -/
  done : Bool := false
  /-- Scope of the reset whose start-up runs. R383; reset cold -/
  scope : Scope := .cold
  /-- Domains 0 to 11. R384, R386; reset parked -/
  domains : Tab Domain 12 := Tab.fill 12 {}
  /-- CFG.ZREADY.HOLD. R395; reset 0 -/
  zHold : Bool := false
  /-- CFG.ZREADY.IN. R387; reset 0 -/
  zIn : Bool := false
  /-- CFG.ZREADY.DRIVE: the block pulls ZREADY low. R387; reset 1 -/
  zDrive : Bool := true
  /-- CFG.DET. R319; reset 0 -/
  det : Bool := false
  /-- CFG.SEEDSEL. R319; reset 0 -/
  seedSel : Nat := 0
  /-- CFG.STASH.HIGH as accepted. R188; reset 0xC -/
  stashReg : Nat := 0xC
  /-- CFG.STASH.HIGH in force. R188; reset 0xC -/
  stash : Nat := 0xC
  /-- CFG.QSTALE. R242; reset 0x600F_4240 -/
  qstale : W32 := 0x600F4240
  /-- Queue instances reported stale and not re-armed. R242; reset empty -/
  staleSaid : List QueueRef := []
  /-- PER.STATUS.PER_FALLBACK. R391; reset 0 -/
  fallback : Bool := false
  /-- PER.STATUS.DONE. R391; reset 0 -/
  perDone : Bool := false
  /-- PER.STATUS.RMAP_SOFT. R391; reset 0 -/
  rmapSoft : Bool := false
  /-- PER.STATUS.DEBUG, and DBG.STATUS.DEBUG_PERSONALITY. R391, R356; reset 0 -/
  debug : Bool := false
  /-- PER.STATUS.REASON. R391; reset 0 -/
  reason : Nat := 0
  /-- PER.SEQ. R391; reset 0 -/
  perSeq : W64 := 0
  /-- Bytes pushed to PER.PUSH in S3. R388; reset empty -/
  push : List Byte := []
  /-- PER.CTRL.PUSH_DONE was written. R388; reset 0 -/
  pushDone : Bool := false
  /-- Bytes pushed to PER.RMAPPUSH in S4. R346; reset empty -/
  rmapPush : List Byte := []
  /-- PER.CTRL.RMAP_DONE was written. R346; reset 0 -/
  rmapDone : Bool := false
  /-- Energy coefficients of Table 5.6 in pJ. R389, R390; reset 0 -/
  energy : List Nat := [0, 0, 0, 0, 0, 0, 0, 0]
  /-- VID for 1.2 to 3.0 GHz. R376, R390; reset 140 -/
  vids : List Nat := [140, 140, 140, 140, 140, 140, 140, 140, 140, 140, 140, 140, 140, 140, 140, 140, 140, 140, 140]
  /-- Sensor offsets in quarter degrees. R389; reset 0 -/
  offsets : List Int := [0, 0, 0, 0, 0, 0, 0, 0, 0, 0, 0, 0, 0, 0, 0, 0]
  /-- Self-test reference CRCs of columns 0 to 129. R342, R390; reset none -/
  refs : List W32 := []
  /-- STARTUP section in force; none: the factory order. R386; reset none -/
  order : Option (List OrderStep) := none
  /-- KEYSLOT of the personality in force: the key of the soft repair map. R347, R389; reset 0, PRESUMED (log 45) -/
  keySlot : Nat := 0
deriving DecidableEq, Repr

/-- What stage S2 reads from the fuses and keeps (R407). -/
structure FuseSt where
  /-- DEVICE_ID. R407, R413; reset 0 until S2 -/
  devId : List Byte := [0, 0, 0, 0, 0, 0, 0, 0, 0, 0, 0, 0, 0, 0, 0, 0]
  /-- Key slots 0 to 3 (not readable). R389, R407; reset blank -/
  keys : List (List Byte) := []
  /-- Revoke bits. R407; reset 0 -/
  revoke : BitVec 4 := 0
  /-- TEST_LOCK. R407; reset 0 -/
  testLock : Bool := false
deriving DecidableEq, Repr

/-- The IEEE 1500 test wrapper (R408, R409). -/
structure WrapSt where
  /-- Wrapper instruction register. R408; reset BYPASS -/
  wir : BitVec 4 := 0
  /-- The wrapper holds the block as in a cold reset until PWRON_RST_N is pulsed. R409; reset 0 -/
  hold : Bool := false
  /-- MBIST result register. R408; reset DESIGN CHOICE 0 (log 2) -/
  mbist : BitVec 80 := 0
  /-- Cells of the boundary register that are not 0, by signal, newest first. R408; reset DESIGN CHOICE 0 (log 2) -/
  cells : List (Pin × Nat) := []
deriving DecidableEq, Repr

/-- The management slave port and its answers (R406, R418). -/
structure MgmtSt where
  /-- MS_RDATA of the last read. R406; reset 0 (park) -/
  rdata : W32 := 0
  /-- MS_ERR of the last access. R406; reset 0 (park) -/
  err : Bool := false
  /-- Captured upper halves by _LO offset. R418; reset none: a read returns 0 -/
  caps : KMap W32 := []
  /-- Staged upper halves by _LO offset. R418; reset none -/
  staged : KMap W32 := []
  /-- PIT.SEL. R99; reset 0 -/
  pitSel : Nat := 0
  /-- COR.SEL. R136; reset 0 -/
  corSel : Nat := 0
  /-- LNK.SEL. R286; reset 0 -/
  lnkSel : Nat := 0
  /-- LNK.ROUTESEL. R286; reset 0 -/
  routeSel : Nat := 0
  /-- LNK.CHIP.CHIP. R286; reset 0 -/
  chip : Nat := 0
  /-- LNK.CHIP.BELL_FWD. R286; reset 0 -/
  bellFwd : BitVec 4 := 0
  /-- Route table: destinations with a route other than 7 (none). R270; reset 7 -/
  routes : KMap Nat := []
deriving DecidableEq, Repr

/-- Clocks as the model counts them. -/
structure ClkSt where
  /-- Time-stamp counter, ns. R379; reset 0 -/
  time : Nat := 0
  /-- Thirds of a nanosecond gone by since, two for each fabric cycle. R8; reset 0 -/
  third : Nat := 0
  /-- Fabric cycles gone by. R8; reset 0 -/
  cycle : Nat := 0
  /-- Fifteenths of an array cycle gone by since the last whole one. R8; reset 0 -/
  part : Nat := 0
deriving DecidableEq, Repr

end Sys2Proof.Machine
end

