-- ==== Sys2Proof/Machine/State.lean ====
section
/-! DEFINITION. Sys2Proof/Machine/State.lean: the state of the block: every unit the spec gives it, the commands that
wait, and the model's own counter of free values. Reset is the state of a cold reset (Table 17.5). -/

namespace Sys2Proof.Machine

/-- The state of the block. -/
structure State where
  /-- Commands that wait, first in, first out: the model's own interface (log entry 1); reset empty. -/
  pending : List Instr := []
  /-- The model's own counter for free values, read and advanced by a step that meets an open value; reset DESIGN
  CHOICE 0 (log entry 13): no statement rests on it. -/
  free : Nat := 0
  /-- Time-stamp and cycles (R8, R379); reset 0. -/
  clk : ClkSt := {}
  /-- Management slave port, selectors, chip number and routes (R406, R416, R418). -/
  mgmt : MgmtSt := {}
  /-- Start-up, personality, fuses, CFG registers (chapter 17). -/
  cfg : CfgSt := {}
  /-- Straps sampled in S0 (R385, R399); reset as sampled by COLD_RESET, DESIGN CHOICE all 0 before (log entry 2). -/
  straps : Straps := ⟨false, false, false, false, false, false⟩
  /-- What the fuses hold (R407). -/
  fuse : FuseSt := {}
  /-- Test wrapper (R408, R409). -/
  wrap : WrapSt := {}
  /-- Power and clocks (R395). -/
  pwr : PwrSt := {}
  /-- Host unit (R311). -/
  hst : HostSt := {}
  /-- Bell (R21). -/
  bel : BellSt := {}
  /-- Market (R71, R91). -/
  mkt : Market := {}
  /-- Pitches (R99). -/
  pits : Tab PitchSt 16 := Tab.fill 16 {}
  /-- Context slots (R94). -/
  ctxs : Tab Ctx 96 := Tab.fill 96 {}
  /-- Physical cores (R116). -/
  cores : Tab Core 72 := Tab.fill 72 {}
  /-- Link ports (R262). -/
  ports : Tab Port 4 := Tab.fill 4 {}
  /-- Event and Tally egress and completions held back (R298, R308, R339). -/
  ev : EvSt := {}
  /-- Errors and spares (R348). -/
  errs : ErrSt := {}
  /-- Debug (R356). -/
  dbg : DbgSt := {}
  /-- Counters (R362). -/
  cnt : CntSt := {}
  /-- Trace (R371). -/
  trc : TrcSt := {}
  /-- Stream-plane route entries by logical core: 64 bytes each, absent: all invalid (R393); reset none. -/
  streams : KMap (List Byte) := []
  /-- Host memory as the block has read and written it (log entry 3); reset nothing listed. -/
  hostMem : Memory := []
  /-- Device memory as the block has read and written it (log entry 3); reset nothing listed. -/
  devMem : Memory := []
  /-- Writes not yet acknowledged (R400, R401); reset empty. -/
  outst : List OutWrite := []
  /-- The last read that each port has asked for (R310, R400, R404); reset none. -/
  lastRead : KMap ReadReq := []
deriving DecidableEq, Repr

/-- Why the model stops with a fault: never. Every fault of the spec ends a context or a period of the block and the
block goes on, so no meaning raises one: the type has no constructor. -/
inductive Fault where
deriving DecidableEq, Repr

/-- Why the model has no meaning for a command. -/
inductive Refusal where
  /-- A command whose arm of `exec` has no meaning yet. Raised by `exec` alone; safe: the machine stops. -/
  | notModelled (mnemonic : String)
deriving DecidableEq, Repr

/-- The block right after a cold reset: each field at the value its docstring in Units.lean gives (R383, Table 17.5). -/
def State.reset : State := {}

end Sys2Proof.Machine
end

