-- ==== Sys2Proof/Machine/Ops.lean ====
section
/-! DEFINITION. Sys2Proof/Machine/Ops.lean: the named operations over the state: units, time, counters, hang rings,
trace records, event reports, off-block memory and completion entries. -/

namespace Sys2Proof.Machine

/-! ### Units of the state -/

def State.ctx (s : State) (i : Slot) : Ctx := s.ctxs.get i
def State.core (s : State) (c : PCore) : Core := s.cores.get c
def State.pit (s : State) (p : Pitch) : PitchSt := s.pits.get p
def State.port (s : State) (p : LPort) : Port := s.ports.get p
def State.modCtx (s : State) (i : Slot) (f : Ctx → Ctx) : State := { s with ctxs := s.ctxs.put i (f (s.ctxs.get i)) }
def State.modCore (s : State) (c : PCore) (f : Core → Core) : State := { s with cores := s.cores.put c (f (s.cores.get c)) }
def State.modSeq (s : State) (c : PCore) (f : Seq → Seq) : State := s.modCore c fun k => { k with seq := f k.seq }
def State.modPit (s : State) (p : Pitch) (f : PitchSt → PitchSt) : State := { s with pits := s.pits.put p (f (s.pits.get p)) }
def State.modPort (s : State) (p : LPort) (f : Port → Port) : State := { s with ports := s.ports.put p (f (s.ports.get p)) }

/-- What no command but its own changes: the commands that wait (log entry 1), the straps (R399), what the fuses hold (R407)
and the test wrapper (R408); while the wrapper holds the block as in a cold reset nothing happens (R409). -/
def State.act (s : State) (f : State → State) : State :=
  if s.wrap.hold then s else { f s with pending := s.pending, straps := s.straps, fuse := s.fuse, wrap := s.wrap }

/-- A command that takes effect through `act` and leaves a next state. -/
def State.run (s : State) (f : State → State) : Host.Outcome State Fault Refusal := .next (s.act f)

/-- The units of the block run: no FATAL_ERROR, no stop-now, and the test wrapper does not hold the block. -/
def State.runs (s : State) : Bool := !s.errs.fatal && !s.dbg.stopped

/-- Every slot, in ascending order. -/
def allSlots : List Slot := List.finRange 96
/-- Every physical core, in ascending order. -/
def allCores : List PCore := List.finRange 72
/-- Every pitch, in ascending order. -/
def allPitches : List Pitch := List.finRange 16
/-- Every link port, in ascending order. -/
def allPorts : List LPort := List.finRange 4

/-- A slot number as a slot, none for 96 and above. -/
def slot? (n : Nat) : Option Slot := if h : n < 96 then some ⟨n, h⟩ else none
/-- A physical core number as a core. -/
def core? (n : Nat) : Option PCore := if h : n < 72 then some ⟨n, h⟩ else none

/-- The state over the counter of free values advanced by one; the old count is the free value's argument. -/
def State.takeFree (s : State) : Nat × State := (s.free, { s with free := s.free + 1 })

/-- n bytes whose contents the spec leaves open, each a free value of its own. -/
def State.freeBytes (s : State) (n : Nat) : List Byte × State :=
  ((List.range n).map fun k => (Config.freeValue (s.free + k)).extractLsb' 0 8, { s with free := s.free + n })

/-! ### Logical, physical and image cores (R9, R10, R52) -/

/-- The logical cores of a mask, ascending. -/
def maskCores (m : W64) : List Nat := (List.range 64).filter fun i => m.getLsbD i

/-- The physical core that serves a logical core, under the repair map in force. -/
def State.physOf (s : State) (l : Nat) : Option PCore :=
  allCores.find? fun c => match (s.core c).lcore with | some k => k.val == l | none => false

/-- Image core i of a pitch: its i-th logical core in ascending order, as a physical core (R52). -/
def State.imageCore (s : State) (p : Pitch) (i : Nat) : Option PCore :=
  match (maskCores (s.pit p).mask)[i]? with
  | some l => s.physOf l
  | none => none

/-- The pitch of a physical core, if it lies in one. -/
def State.pitchOf (s : State) (c : PCore) : Option Pitch :=
  match (s.core c).lcore with
  | some l => allPitches.find? fun p => (s.pit p).mask.getLsbD l.val
  | none => none

/-- The image-core number of a physical core in its pitch. -/
def State.icoreOf (s : State) (c : PCore) : Option Nat :=
  match (s.core c).lcore, s.pitchOf c with
  | some l, some p => (maskCores (s.pit p).mask).findIdx? (· == l.val)
  | _, _ => none

/-- The physical cores of a pitch's mask, ascending in logical number. -/
def State.pitchCores (s : State) (p : Pitch) : List PCore := (maskCores (s.pit p).mask).filterMap s.physOf

/-- The image cores of a context's image as physical cores, in image-core order. -/
def State.ctxCores (s : State) (i : Slot) : List PCore :=
  match (s.ctx i).image with
  | some im => (s.pitchCores (s.ctx i).policy.pitch).take im.cores
  | none => []

/-- A context is resident in OPEN, LOADED, ARRIVING or TORN (R97). -/
def Ctx.resident (c : Ctx) : Bool := c.state != .free

/-- The resident contexts of a pitch, ascending. -/
def State.residents (s : State) (p : Pitch) : List Slot :=
  allSlots.filter fun i => (s.ctx i).resident && (s.ctx i).policy.pitch == p

/-! ### Counters (R361 to R363) -/

/-- Global counter n advances by k. -/
def State.count (s : State) (n k : Nat) : State :=
  if k = 0 then s else
  { s with cnt := { s.cnt with globals := s.cnt.globals.insert n ((s.cnt.globals.find n).getD 0 + k) } }

/-- Counter i of a physical core advances by k (Table 16.8). -/
def State.countCore (s : State) (c : PCore) (i : Fin 32) (k : Nat) : State :=
  s.modCore c fun x => { x with counters := x.counters.put i (x.counters.get i + k) }

/-- Context counter i of a slot advances by k (R363). -/
def State.countCtx (s : State) (j : Slot) (i : Fin 32) (k : Nat) : State :=
  s.modCtx j fun x => { x with counters := x.counters.put i (x.counters.get i + k) }

/-- The time-driven counters of Table 16.8 by number. -/
def CycSt.counter (y : CycSt) (i : Nat) : Option Nat :=
  if i = 1 then some y.stall else if i = 2 then some y.idle
  else if 3 ≤ i && i ≤ 14 then y.reasons.at? (i - 3)
  else if i = 20 then some y.seqStall else if i = 21 then some y.seqBlocked else if i = 27 then some y.samples else none

/-- The time-driven counters of a core changed. -/
def State.modCyc (s : State) (c : PCore) (f : CycSt → CycSt) : State :=
  { s with cnt := { s.cnt with cyc := s.cnt.cyc.put c (f (s.cnt.cyc.get c)) } }

/-- A global counter's value; numbers that the tables do not assign read as zero (R362). -/
def State.globalCounter (s : State) (n : Nat) : Nat :=
  if n < 0x900 then
    match core? (n / 32) with
    | some c => match (s.cnt.cyc.get c).counter (n % 32) with
      | some v => v
      | none => if n % 32 < 28 then ((s.core c).counters.at? (n % 32)).getD 0 else 0
    | none => 0
  else (s.cnt.globals.find n).getD 0

/-- A context counter's value (R363); 21 to 31 are reserved. -/
def State.ctxCounter (s : State) (j : Slot) (n : Nat) : Nat :=
  if n < 21 then ((s.ctx j).counters.at? n).getD 0 else 0

/-! ### Queues (R236, R242) -/

/-- The consumer of a queue instance takes an item: QUEUE_STALE re-arms for it (R242). -/
def State.taken (s : State) (kind index : Nat) (owner : Option Slot := none) : State :=
  let q : QueueRef := { kind := BitVec.ofNat 4 kind, index := BitVec.ofNat 12 index, owner := owner }
  if s.cfg.staleSaid.contains q then { s with cfg := { s.cfg with staleSaid := s.cfg.staleSaid.filter fun x => x != q } } else s

/-- A queue instance with its owner (R236): kind 2 has the owner it is named with, kinds 4 and 5 their slot, the rest none. -/
def ownedRef (q : QueueRef) : QueueRef :=
  { q with owner := if q.kind = 2 then q.owner else if q.kind = 4 || q.kind = 5 then slot? q.index.toNat else none }

/-- A completion that waits for the acknowledgement of its descriptor's writes is in the completion egress of its ring's slot
(R236, R298). -/
def HeldComp.inEgress (h : HeldComp) (i : Slot) : Bool := h.waitFor == .writes && h.comp.ring == .slot i

/-- The epoch of a queue instance advances at a flush (R241). -/
def State.bumpEpoch (s : State) (id : Nat) : State :=
  { s with mkt := { s.mkt with epochs := s.mkt.epochs.insert id (((s.mkt.epochs.find id).getD 0 + 1) % 4096) } }

/-- The group of a queue kind in CFG.QSTALE.ENABLE (Table 11.3). -/
def staleGroup (kind : Nat) : Nat := if kind ≤ 4 then kind else if kind ≤ 7 then 5 else 6

/-- Whether a queue instance holds an item (Table 11.1). -/
def State.queueHolds (s : State) (q : QueueRef) : Bool :=
  let n := q.index.toNat
  match q.kind.toNat with
  | 0 => !((s.mkt.ready.at? n).getD []).isEmpty
  | 1 => !((s.mkt.inq.at? n).getD []).isEmpty || s.mkt.arrivals.any fun a => match a.core with | some c => c.val == n | none => false
  | 2 => match core? (n / 16), q.owner with
    | some c, some i => (s.core c).inboxes.any fun b => b.slot == i && b.num == n % 16 && decide (b.occ > 0)
    | _, _ => false
  | 3 => match core? n with | some c => !(s.core c).reqq.isEmpty | none => false
  | 4 => match slot? n with | some i => !(s.ctx i).spillq.isEmpty | none => false
  | 5 => match slot? n with | some i => s.ev.held.any (·.inEgress i) | none => false
  | 6 => !(s.ev.high.isEmpty && s.ev.low.isEmpty)
  | 7 => !s.ev.tallies.isEmpty
  | 8 => !s.trc.ring.isEmpty
  | _ => false

/-- A queue instance that has become empty is no longer reported as stale (R242). -/
def State.pruneStale (s : State) : State :=
  if s.cfg.staleSaid.isEmpty then s else { s with cfg := { s.cfg with staleSaid := s.cfg.staleSaid.filter s.queueHolds } }

/-! ### Hang rings (R359) -/

/-- An event enters the hang ring of a unit; frozen by a stop-now and by FATAL_ERROR. -/
def State.hang (s : State) (origin : W16) (sub : Nat) (event slot : Nat) (data : W64) : State :=
  if s.dbg.stopped || s.errs.fatal then s else
  let k := 16 * origin.toNat + sub
  let r := (s.dbg.hang.find k).getD {}
  let e : BitVec 128 := BitVec.ofNat 128 ((s.clk.time % 2 ^ 32) <<< 96 ||| event <<< 88 ||| slot <<< 81 ||| data.toNat)
  let l := r.last ++ [e]
  { s with dbg := { s.dbg with hang := s.dbg.hang.insert k { last := l.drop (l.length - 64), count := r.count + 1 } } }

/-- ORIGIN of a physical core (Table 15.3). -/
def oCore (c : PCore) : W16 := 0x1000 ||| BitVec.ofNat 16 c.val
/-- ORIGIN of a scratch bank: 24 × n + bank. -/
def oBank (c : PCore) (bank : Nat) : W16 := 0x2000 ||| BitVec.ofNat 16 (24 * c.val + bank)
/-- ORIGIN of a Market store: 0 task store, 1 matching store, 2 edge memory. -/
def oMarket (i : Nat) : W16 := 0x3000 ||| BitVec.ofNat 16 i
/-- ORIGIN of a memory port. -/
def oMem (p : Nat) : W16 := 0x4000 ||| BitVec.ofNat 16 p
/-- ORIGIN of a link port: 16 × port + physical lane. -/
def oLink (p : LPort) (lane : Nat := 0) : W16 := 0x5000 ||| BitVec.ofNat 16 (16 * p.val + lane)
/-- ORIGIN of the control domain. -/
def oCtl : W16 := 0x6000
/-- ORIGIN of the host port. -/
def oHost : W16 := 0x7000

/-! ### Reports and their coalescing windows (R339, R423) -/

/-- The record of a closed coalescing window is queued, or counted as lost at a full egress (R308, R423). A
MESH_TIMEOUT record from two cores or more retires the core that ORIGIN names (R340). -/
def State.queueWindow (s : State) (w : CoWindow) : State :=
  let s := if w.code = 0x4040 && w.reporters ≥ 2 && ((List.range 72).filter fun i => w.mask.getLsbD i).length ≥ 2
              && w.origin.toNat / 4096 = 1 then
             match core? (w.origin.toNat % 4096) with
             | some c => { s with errs := { s.errs with want := s.errs.want ++ [(c, false)] } }
             | none => s
           else s
  if s.ev.high.length + s.ev.low.length ≥ 1024 then
    { (s.count 0x1A46 1) with ev := { s.ev with lost := s.ev.lost + 1 } }
  else if w.code.toNat / 4096 = 1 then { s with ev := { s.ev with low := s.ev.low ++ [w] } }
  else { s with ev := { s.ev with high := s.ev.high ++ [w] } }

/-- A report merged into its window (R339). -/
def CoWindow.merge (w : CoWindow) (r : Report) : CoWindow :=
  { w with reporters := min 255 (w.reporters + 1), mask := match r.core with | some c => setBit w.mask c.val true | none => w.mask }

/-- A report enters the coalescer (R339): it merges into the window of its CODE, ORIGIN and SLOT, or opens one; a
seventeenth window first closes the oldest. -/
def State.enterReport (s : State) (r : Report) (torn : Bool := false) : State :=
  let same (w : CoWindow) := w.code = r.code && w.origin = r.origin && w.slot = r.slot && s.clk.cycle < w.first + 4096
  if s.ev.windows.any same then
    { s with ev := { s.ev with windows := s.ev.windows.map fun w => if same w then w.merge r else w } }
  else
    let s := match s.ev.windows with
      | w :: t => if (w :: t).length ≥ 16 then { s with ev := { s.ev with windows := t } }.queueWindow w else s
      | [] => s
    let (cid, step) := match slot? r.slot with
      | some i => ((s.ctx i).id, (s.ctx i).step)
      | none => (0, 0)
    let m : BitVec 72 := match r.core with | some c => setBit 0 c.val true | none => 0
    let w : CoWindow := {
      code := r.code, origin := r.origin, slot := r.slot, ctxId := cid, time := s.clk.time, bell := s.bel.count
      step := step, detail := r.detail, reporters := 1, mask := m, first := s.clk.cycle, torn := torn }
    { s with ev := { s.ev with windows := s.ev.windows ++ [w] } }

/-! ### Trace (R365 to R369) -/

/-- A 32-byte trace record (R365): the body's 24 bytes, short bodies padded with zero. -/
def traceBytes (time kind slot : Nat) (origin : W16) (body : List Byte) : List Byte :=
  leBytes 4 time ++ [BitVec.ofNat 8 kind, BitVec.ofNat 8 slot] ++ leBytes 2 origin.toNat ++
  (body ++ List.replicate (24 - body.length) 0)

/-- Bytes of a body placed at their offsets within the record (8 and up). -/
def bodyAt (fields : List (Nat × List Byte)) : List Byte :=
  fields.foldl (fun b f => (b ++ List.replicate (f.1 - 8 - b.length) 0).take (f.1 - 8) ++ f.2) []

/-- Units held by the trace ring. -/
def TrcSt.level (t : TrcSt) : Nat := natSum (t.ring.map fun b => b.length / 64)

/-- Records held by the trace ring: those of its packets (R366). -/
def TrcSt.records (t : TrcSt) : Nat :=
  natSum (t.ring.map fun b => if b[7]?.map (fun x => bit x 7 && fld x 6 4 == 0) = some true then leNat ((b.drop 8).take 2) else 0)

/-- Units the trace egress can hold: the 4 MiB middle store and the 8 + 8 registers (R237, R238). -/
def traceCap : Nat := 65536 + 16

/-- The header word of a variable-length item (Table 11.2). -/
def itemHeader (written : Bool) (kind epoch units bytes : Nat) : List Byte :=
  leBytes 8 (b2n written <<< 63 ||| kind <<< 60 ||| (epoch % 4096) <<< 48 ||| (units % 65536) <<< 32 ||| bytes % 2 ^ 32)

/-- A packet as one item of the trace egress (R366). -/
def packetItem (epoch : BitVec 12) (time : Nat) (recs : List (List Byte)) : List Byte :=
  let pay := recs.flatten
  let units := 1 + ceilDiv pay.length 64
  let hd := itemHeader true 0 epoch.toNat units pay.length ++ leBytes 2 recs.length ++ List.replicate 6 0 ++ leBytes 8 time
  hd ++ List.replicate (64 - hd.length) 0 ++ pay ++ List.replicate ((units - 1) * 64 - pay.length) 0

/-- A loss item (R368). -/
def lossItem (epoch : BitVec 12) (n : Nat) : List Byte :=
  itemHeader true 2 epoch.toNat 1 0 ++ leBytes 8 n ++ List.replicate 48 0

/-- The oldest packets are discarded until the ring has room for u units (FREEZE, R368). -/
def dropOldest (cap u : Nat) : List (List Byte) → List (List Byte)
  | [] => []
  | h :: t => if natSum ((h :: t).map fun b => b.length / 64) + u ≤ cap then h :: t else dropOldest cap u t

/-- n trace records are lost (R368). -/
def State.traceLose (s : State) (n : Nat) : State :=
  let s := s.count 0x1A4A n
  { s with trc := { s.trc with
      lost := s.trc.lost + BitVec.ofNat 64 n, lostSince := s.trc.lostSince + n, lostBell := s.trc.lostBell + n } }

/-- A closed packet meets the ring (R366, R368). Under FREEZE the oldest packets make room for it after the trigger too, since
TRC.POST more records are recorded (DEDUCED, log entry 81). -/
def State.tracePlace (s : State) (item : List Byte) (recs : Nat) : State :=
  let t := s.trc
  let loss := if t.lostSince > 0 then [lossItem t.epoch t.lostSince] else []
  let need := item.length / 64 + loss.length
  let keep := if t.policy = 2 then dropOldest traceCap need t.ring else t.ring
  if natSum (keep.map fun b => b.length / 64) + need ≤ traceCap then
    { s with trc := { t with ring := keep ++ loss ++ [item], lostSince := 0, heldPkt := none } }
  else if t.policy = 1 then { s with trc := { t with heldPkt := some item } }
  else s.traceLose recs

/-- The open packet closes (R366). A packet already held for room keeps it open. -/
def State.traceClose (s : State) : State :=
  let t := s.trc
  if t.packet.isEmpty || t.heldPkt.isSome then s else
  let recs := t.packet.take 64
  let s : State := { s with trc := { t with packet := t.packet.drop 64, firstAt := s.clk.time } }
  s.tracePlace (packetItem t.epoch s.clk.time recs) recs.length

/-- The trace freezes (R368): the open packet closes, and nothing more is recorded. -/
def State.traceFreeze (s : State) : State :=
  let s := s.traceClose
  { s with trc := { s.trc with frozen := true, left := none } }.enterReport
    { code := 0xC006, origin := oCtl, detail := BitVec.ofNat 128 s.trc.records }

/-- A record reaches the trace unit (R366, R368). While a packet waits for room under HOLD none is accepted: the record's unit
stalls with it, which changes only timing. -/
def State.traceAccept (s : State) (r : List Byte) : State :=
  let t := s.trc
  if t.heldPkt.isSome then { s with trc := { t with stalled := t.stalled ++ [r] } } else
  let s : State := { (s.count 0x1A49 1) with trc := { t with
    packet := t.packet ++ [r], left := t.left.map (· - 1), firstAt := if t.packet.isEmpty then s.clk.time else t.firstAt } }
  let s := if s.trc.packet.length ≥ 64 then s.traceClose else s
  if s.trc.left = some 0 then s.traceFreeze else s

/-- A record with its own time-stamp is made (R365, R368). -/
def State.traceAt (s : State) (time kind slot : Nat) (origin : W16) (body : List Byte) : State :=
  let t := s.trc
  if !t.en || !(kind == 1 || t.kinds.getLsbD (kind - 1)) then s
  else if t.frozen then s.traceLose 1
  else s.traceAccept (traceBytes (time % 2 ^ 32) kind slot origin body)

/-- Room in the ring: a packet held for it enters, and the records that wait are accepted in their order (R368). -/
def State.traceRefill (s : State) : State :=
  match s.trc.heldPkt with
  | none => s
  | some item =>
    let s := s.tracePlace item 0
    if s.trc.heldPkt.isSome then s else
    s.trc.stalled.foldl (fun s r => s.traceAccept r) { s with trc := { s.trc with stalled := [] } }

/-- A record of the present moment. -/
def State.trace (s : State) (kind slot : Nat) (origin : W16) (body : List Byte) : State := s.traceAt s.clk.time kind slot origin body

/-! ### Off-block memory (R310, R400 to R404) -/

/-- The port on which the model sends a device access: 256-byte interleave over the 16 ports (log entry 4). -/
def memPort (addr : Nat) : Fin 17 := ⟨addr / 256 % 16, by omega⟩
/-- The host port. -/
def hostPort : Fin 17 := 16

/-- Whose address space the requests for a ring carry (R310). -/
def ringWho : Ring → Requester
  | .slot i => .ctx i
  | .admin => .supervisor

/-- Whose address space a write carries (R310): its context's, or the supervisor's. -/
def WOwner.who : WOwner → Requester
  | .slice i _ _ => .ctx i
  | .spill i _ => .ctx i
  | .desc c => ringWho c.ring
  | .comp r => ringWho r
  | _ => .supervisor

/-- The address-space tag of a request (R310): HST.SPASID or the PASID of the context's ring set-up, while enabled. -/
def State.pasidOf (s : State) : Requester → Option (BitVec 20)
  | .ctx i => if (s.ctx i).setup.pasidEn then some (s.ctx i).setup.pasid else none
  | _ => if bit s.hst.spasid 20 then some (s.hst.spasid.extractLsb' 0 20) else none

/-- The slot of a write's owner, 0x7F for none. -/
def OutWrite.slot (w : OutWrite) : Nat := match w.owner.who with | .ctx i => i.val | _ => 0x7F

/-- The lowest write tag of a port that no write of a list has (R400; log entry 4). -/
def freeTag (l : List OutWrite) (p : Fin 17) : Option (BitVec 8) :=
  let used := (l.filter fun w => w.port == p && !w.waits).map fun w => w.tag.toNat
  ((List.range 256).find? fun i => !used.contains i).map (BitVec.ofNat 8)

/-- Two writes touch one 64-byte unit of the same memory (R401). -/
def OutWrite.meets (a b : OutWrite) : Bool :=
  (a.port == 16) == (b.port == 16) && decide (a.addr / 64 ≤ (b.addr + b.len - 1) / 64) && decide (b.addr / 64 ≤ (a.addr + a.len - 1) / 64)

/-- A write after the writes of a list: it is sent with a tag, or waits for one, or for the acknowledgement of a write to one of
its units (R400, R401). -/
def OutWrite.sent (w : OutWrite) (l : List OutWrite) (now : Nat) : OutWrite :=
  if l.any w.meets then { w with waits := true } else
  match freeTag l w.port with
  | some t => { w with tag := t, waits := false, since := now }
  | none => { w with waits := true }

/-- The writes that wait are sent, in their order, as far as tags and units allow; the first list is before the second. -/
def sendWaiting (now : Nat) (done : List OutWrite) : List OutWrite → List OutWrite
  | [] => done
  | w :: t =>
    let w' := if !w.waits || done.any w.meets then w else
      match freeTag (done ++ t) w.port with
      | some g => { w with tag := g, waits := false, since := now }
      | none => w
    sendWaiting now (done ++ [w']) t

/-- The bytes of a write are in place in host or device memory. -/
def State.place (s : State) (w : OutWrite) : State :=
  if w.port = 16 then { s with hostMem := s.hostMem.writeBytes w.addr w.data } else { s with devMem := s.devMem.writeBytes w.addr w.data }

/-- The 64-byte units that a write of len bytes at an address touches. -/
def Memory.units (m : Memory) (addr len : Nat) : List Byte :=
  m.readBytes (addr / 64 * 64) (64 * (ceilDiv (addr + len) 64 - addr / 64))

/-- The check bits of 16-byte words (R331, R402). -/
def checkBits (units : List Byte) : List (BitVec 16) :=
  (List.range (units.length / 16)).map fun j => (eccEncode (BitVec.ofNat 128 (leNat ((units.drop (16 * j)).take 16)))).extractLsb' 128 16

/-- A write whose bytes are in place, as its beat carries it: the units that it touches, and beside those of device memory their
check bits (R331, R402). -/
def OutWrite.formed (w : OutWrite) (s : State) : OutWrite :=
  let u := (if w.port = 16 then s.hostMem else s.devMem).units w.addr w.len
  { w with data := [], units := u, chk := if w.port = 16 then [] else checkBits u }

/-- The ports are open, and a write is put in place and formed; one that was already is left. -/
def State.putWrite (s : State) (w : OutWrite) : State × OutWrite :=
  if w.data.isEmpty then (s, w) else let t := s.place w; (t, w.formed t)

/-- A write with its bytes: while a lost supply parks the ports it waits with them (R377, R384); else the bytes are in place and it
joins the writes without an acknowledgement; a memory port that has no tag for it notes a credit wait (Table 16.5). -/
def State.outWrite (s : State) (w : OutWrite) : State :=
  if s.pwr.lost then { s with outst := s.outst ++ [{ w with waits := true }] } else
  let (s, w) := s.putWrite w
  let w := w.sent s.outst s.clk.cycle
  let s : State := { s with outst := s.outst ++ [w] }
  if w.waits && w.port ≠ 16 then s.hang (oMem w.port.val) 0 0x40 w.slot (BitVec.ofNat 64 (w.addr / 64)) else s

/-- The ports are released again: what waited for them is in place, in its order, and is sent (R377). -/
def State.openPorts (s : State) : State :=
  let r := s.outst.foldl (fun x w => let y := x.1.putWrite w; (y.1, x.2 ++ [y.2])) (s, [])
  { r.1 with pwr := { r.1.pwr with lost := false }, outst := sendWaiting s.clk.cycle [] r.2 }

/-- An event enters the host port's counters for n bytes, or the memory port's (Table 16.7). -/
def State.countPort (s : State) (p : Fin 17) (write : Bool) (bytes : Nat) : State :=
  if p = 16 then s.count (0x1A40 + b2n write) (ceilDiv bytes 64)
  else s.count (0x1800 + 8 * p.val + b2n write) (ceilDiv bytes 64)

/-- A read is asked for at a port, under an address-space tag (R310, R400), and counted; the model answers it in the step that makes
it, so that its read tags are free again at its end (log entry 4). -/
def State.readTagged (s : State) (p : Fin 17) (addr n : Nat) (pasid : Option (BitVec 20)) : State :=
  { s.countPort p false n with lastRead := s.lastRead.insert p.val { addr := addr, len := n, pasid := pasid } }

/-- The pieces of a range in lines of 256 bytes, lowest address first, fuel being as many lines as it may touch. -/
def linesOf : Nat → Nat → Nat → List (Nat × Nat)
  | 0, _, _ => []
  | f + 1, addr, n =>
    if n = 0 then [] else
    let k := min n (256 - addr % 256)
    (addr, k) :: linesOf f (addr + k) (n - k)

/-- A read of n bytes of host memory, or of device memory, for a requester: of device memory, each line at the port of its address. -/
def State.readReq (s : State) (host : Bool) (addr n : Nat) (who : Requester) : State :=
  if host then s.readTagged 16 addr n (s.pasidOf who)
  else (linesOf (n / 256 + 2) addr n).foldl (fun s x => s.readTagged (memPort x.1) x.1 x.2 (s.pasidOf who)) s

/-- A write of one of the 64-byte units of n bytes of host memory, or of device memory, is outstanding: a read of them waits for
its acknowledgement (R401). -/
def State.unitBusy (s : State) (host : Bool) (addr n : Nat) : Bool :=
  s.outst.any fun w => (w.port == 16) == host && decide (w.addr / 64 < ceilDiv (addr + n) 64) && decide (addr / 64 < ceilDiv (w.addr + w.len) 64)

/-- The reads of a context's image through the memory ports (Table 16.7, R363); the whole of it is read once. -/
def State.countImage (s : State) (i : Slot) (addr len : Nat) : State :=
  let n := ceilDiv len 64
  ((s.readReq false addr len (.ctx i)).countCtx i 5 n).modCtx i fun c => { c with act := { c.act with memrd := c.act.memrd + n } }

/-- Bytes cut at the multiples of n from their address: the beats of a write (R400, R404). Fuel. -/
def beatsOf (n : Nat) : Nat → Nat → List Byte → List (Nat × List Byte)
  | 0, _, _ => []
  | f + 1, addr, bs =>
    if bs.isEmpty then [] else
    let k := n - addr % n
    (addr, bs.take k) :: beatsOf n f (addr + k) (bs.drop k)

/-- The beats of a write of bytes at an address: of 128 bytes at the host port, of 256 at a memory port. -/
def writeBeats (host : Bool) (addr : Nat) (bytes : List Byte) : List (Nat × List Byte) :=
  beatsOf (if host then 128 else 256) (bytes.length / 128 + 2) addr bytes

/-- One beat of a write leaves with its tag and its owner's address-space tag, and is outstanding until its acknowledgement
(R310, R400, R401). -/
def State.beatOut (s : State) (p : Fin 17) (o : WOwner) (b : Nat × List Byte) : State :=
  (s.countPort p true b.2.length).outWrite { port := p, tag := 0, addr := b.1, owner := o, pasid := s.pasidOf o.who, len := b.2.length, data := b.2 }

/-- A write to host memory leaves, beat by beat. -/
def State.hostWrite (s : State) (addr : Nat) (bytes : List Byte) (o : WOwner) : State :=
  (writeBeats true addr bytes).foldl (fun s b => s.beatOut 16 o b) s

/-- A write to device memory leaves, beat by beat, each at the port of its address. -/
def State.devWrite (s : State) (addr : Nat) (bytes : List Byte) (o : WOwner) : State :=
  (writeBeats false addr bytes).foldl (fun s b => s.beatOut (memPort b.1) o b) s

/-- n bytes of host memory. -/
def State.hostRead (s : State) (addr n : Nat) : List Byte := s.hostMem.readBytes addr n
/-- n bytes of device memory. -/
def State.devRead (s : State) (addr n : Nat) : List Byte := s.devMem.readBytes addr n

/-- A write carrying this owner is outstanding. -/
def State.writing (s : State) (f : WOwner → Bool) : Bool := s.outst.any fun w => f w.owner

/-! ### MSI-X (R309) -/

/-- A vector is requested; a waiting request for the same vector absorbs it (R404). -/
def State.msi (s : State) (v : BitVec 11) : State :=
  if s.hst.msi.contains v then s else { s with hst := { s.hst with msi := s.hst.msi ++ [v] } }

/-! ### Event records (R307, R308, R339, R423) -/

/-- A ring size of HST.RSIZE in entries. -/
def rsize (w : W32) (lo : Nat) : Nat := 2 ^ fld w (lo + 4) lo

/-- The 64-byte event record of Table 13.9. -/
def eventBytes (phase : Nat) (w : CoWindow) : List Byte :=
  leBytes 4 (phase <<< 31 ||| w.slot <<< 16 ||| w.code.toNat) ++ leBytes 4 w.ctxId.toNat ++ leBytes 8 w.time ++
  leBytes 8 w.bell.toNat ++ leBytes 8 w.step.toNat ++ leBytes 16 w.detail.toNat ++ leBytes 2 w.origin.toNat ++
  [BitVec.ofNat 8 w.reporters, 0] ++ leBytes 9 w.mask.toNat ++ [0, 0, 0]

/-- PHASE of index i of a ring of N entries (R289). -/
def phaseOf (i n : Nat) : Nat := (i / n + 1) % 2

/-- The event ring has room for one more record, and the host port is not parked by a lost supply (R377). -/
def State.evRoom (s : State) : Bool :=
  s.hst.en && !s.pwr.lost && (s.hst.evTail + 2 ^ 31 - s.hst.evHead) % 2 ^ 31 < rsize s.hst.rsize 16

/-- One event record is written to the event ring; its EVENT trace record is made at the same point (R423). -/
def State.evWrite (s : State) (w : CoWindow) : State :=
  let n := rsize s.hst.rsize 16
  let i := s.hst.evTail
  let s := s.hostWrite (s.hst.evq.toNat + 64 * (i % n)) (eventBytes (phaseOf i n) w) (.event w.torn)
  let s : State := { s with hst := { s.hst with evTail := (i + 1) % 2 ^ 31 } }
  let s := (s.count 0x1A45 1).taken 6 0
  s.trace 7 w.slot w.origin (bodyAt [(8, leBytes 2 w.code.toNat), (10, [BitVec.ofNat 8 w.reporters]), (16, leBytes 16 w.detail.toNat)])

/-- The loss record of R308. -/
def lostWindow (s : State) (n : Nat) : CoWindow :=
  { code := 0x810A, origin := oCtl, slot := 0x7F, ctxId := 0, time := s.clk.time, bell := s.bel.count, step := 0,
    detail := BitVec.ofNat 128 n, reporters := 1, mask := 0, first := s.clk.cycle, torn := false }

/-- The trace triggers (R369): the first trigger after EN = 1 counts. -/
def State.triggerTrace (s : State) : State :=
  let t := s.trc
  if !t.en || t.triggered then s else
  let left := if t.policy = 2 then t.post else 0
  let s : State := { s with trc := { t with triggered := true } }
  let s := s.trace 2 0x7F oCtl (bodyAt [(8, [BitVec.ofNat 8 t.src]), (12, leBytes 4 t.val.toNat), (16, leBytes 4 left)])
  let s := s.enterReport { code := 0xC004, origin := oCtl, detail := Config.detailPack 0xC004 [t.src, t.val.toNat] }
  if t.policy ≠ 2 then s
  else if t.post = 0 then s.traceFreeze
  else { s with trc := { s.trc with left := some t.post } }

/-- An event of this CODE triggers the trace under SRC 1 (R369). -/
def State.triggerOn (s : State) (code : W16) : State :=
  if s.trc.src = 1 && s.trc.val.toNat % 65536 = code.toNat then s.triggerTrace else s

/-- Waiting events go to the host ring while it has room: losses first, then the higher level (R240, R308). -/
def State.evDrain (s : State) : Nat → State
  | 0 => s
  | k + 1 =>
    if !s.evRoom then s else
    match s.ev.high, s.ev.low with
    | [], [] => s
    | hi, lo =>
      if s.ev.lost > 0 then
        let t := (s.evWrite (lostWindow s s.ev.lost)).triggerOn 0x810A
        State.evDrain { t with ev := { t.ev with lost := 0 } } k
      else
        match hi, lo with
        | w :: t, _ => State.evDrain ({ s with ev := { s.ev with high := t } }.evWrite w) k
        | [], w :: t => State.evDrain ({ s with ev := { s.ev with low := t } }.evWrite w) k
        | [], [] => s

/-- A coalescing window closes: its record is queued and leaves for the ring if that has room (R423). -/
def State.closeWindow (s : State) (w : CoWindow) : State := (s.queueWindow w).evDrain 2

/-- A report (R307): it enters the coalescer, and triggers the trace where its CODE is the trigger of SRC 1 (R369). -/
def State.report (s : State) (r : Report) (torn : Bool := false) : State :=
  ((s.enterReport r torn).evDrain 2).triggerOn r.code

/-- A report of the control domain about no context, DETAIL a number in its low bits (log entry 12). -/
def State.note (s : State) (code : W16) (detail : Nat := 0) : State :=
  s.report { code := code, origin := oCtl, detail := BitVec.ofNat 128 detail }

/-- A report of the control domain about a context. -/
def State.noteCtx (s : State) (code : W16) (i : Slot) (detail : Nat := 0) : State :=
  s.report { code := code, origin := oCtl, slot := i.val, detail := BitVec.ofNat 128 detail }

/-! ### Completion entries (R296, R298) -/

/-- Entries of a completion ring. -/
def State.cqSize (s : State) : Ring → Nat
  | .admin => rsize s.hst.rsize 8
  | .slot i => 2 ^ (s.ctx i).setup.cqLog
/-- Base of a completion ring. -/
def State.cqBase (s : State) : Ring → Nat
  | .admin => s.hst.acq.toNat
  | .slot i => (s.ctx i).setup.cqBase

/-- CUR and DIRTY of one key of the handle and version table. -/
def Ctx.gran (c : Ctx) (k : VerKey) : Gran := ((c.ver.find? fun e => e.1 == k).map (·.2)).getD {}

/-- The host-memory versioned handles of an image in ascending handle number. -/
def Image.hostVersioned (im : Image) : List HandleRec :=
  (im.handles.filter fun h => h.cls == 1 && h.mem == 6).mergeSort fun a b => decide (a.h ≤ b.h)

/-- VBUF: bit i is CUR of the i-th host-memory versioned handle (Table 13.5). -/
def Ctx.vbuf (c : Ctx) : W32 :=
  match c.image with
  | none => 0
  | some im => BitVec.ofNat 32 (natSum (im.hostVersioned.zipIdx.map fun h => b2n ((c.gran (.offBlock h.1.tid)).cur.contains 0) <<< h.2))

/-- The ring pointers of a ring. -/
def State.ringOf (s : State) : Ring → RingSt
  | .admin => s.hst.ring
  | .slot i => (s.ctx i).ring
/-- The ring pointers of a ring changed. -/
def State.modRing (s : State) (r : Ring) (f : RingSt → RingSt) : State :=
  match r with
  | .admin => { s with hst := { s.hst with ring := f s.hst.ring } }
  | .slot i => s.modCtx i fun c => { c with ring := f c.ring }

/-- The 32-byte completion entry of Table 13.5. -/
def compBytes (c : CompRef) (phase : Nat) (code : W16) (step : W64) (vbuf : W32) (bell : W64) : List Byte :=
  leBytes 4 (phase <<< 31 ||| (c.type % 16) <<< 27 ||| (c.slot % 128) <<< 16 ||| code.toNat) ++ leBytes 4 c.sqIndex ++
  leBytes 8 c.user.toNat ++ leBytes 8 step.toNat ++ leBytes 4 vbuf.toNat ++ leBytes 4 (bell.toNat % 2 ^ 32)

/-- A ring's head passes a descriptor whose handling is finished (R296): at SQ_HEAD it moves on, past a KILL finished ahead of
it too; the KILL at SQ_HEAD + 1 is noted as finished. -/
def RingSt.pass (x : RingSt) (idx : Nat) : RingSt :=
  if idx = x.head then { x with head := (x.head + 1 + b2n x.ahead) % 2 ^ 32, ahead := false }
  else if idx = (x.head + 1) % 2 ^ 32 then { x with ahead := true } else x

/-- The set-up number of a ring: descriptors carry it, and one of an earlier set-up moves no ring (R306). -/
def State.setupOf (s : State) : Ring → Nat
  | .admin => 0
  | .slot i => (s.ctx i).ringSetups

/-- The submission ring moves past a descriptor whose handling is finished; the admin ring has done so when it was taken. -/
def State.advance (s : State) (c : CompRef) : State :=
  match c.ring with
  | .admin => s
  | .slot i => if (s.ctx i).ringSetups = c.setup then s.modRing (.slot i) fun x => x.pass c.sqIndex else s

/-- A completion entry is written to the ring that its descriptor came from (R298). -/
def State.writeEntry (s : State) (c : CompRef) (code : W16) (step : W64 := 0) (vbuf : W32 := 0) : State :=
  s.hostWrite (c.base + 32 * (c.idx % c.size)) (compBytes c (phaseOf c.idx c.size) code step vbuf s.bel.count) (.comp c.ring)

/-- A completion is written; with it every descriptor but SUBMIT_SLICE finishes (R296). -/
def State.writeComp (s : State) (c : CompRef) (code : W16) (step : W64 := 0) (vbuf : W32 := 0) : State :=
  let s := s.writeEntry c code step vbuf
  if c.type = 1 then s else s.advance c

/-- A completion is written once the writes that its descriptor caused are acknowledged (R298). -/
def State.complete (s : State) (c : CompRef) (code : W16) (step : W64 := 0) (vbuf : W32 := 0) : State :=
  if s.writing (fun o => o == .desc c) then
    { s with ev := { s.ev with held := s.ev.held ++ [{ comp := c, code := code, step := step, vbuf := vbuf, waitFor := .writes }] } }
  else s.writeComp c code step vbuf

/-- A descriptor ends: its completion, and for a SUBMIT_SLICE, which finishes when its slice ends or is rejected, its place in
the ring (R296). -/
def State.finish (s : State) (c : CompRef) (code : W16) (step : W64 := 0) (vbuf : W32 := 0) : State :=
  let s := s.complete c code step vbuf
  if c.type = 1 then s.advance c else s

end Sys2Proof.Machine
end

