-- ==== Sys2Proof/Machine/Cycles.lean ====
section
/-! DEFINITION. Sys2Proof/Machine/Cycles.lean: the scoreboard (R118), and what the passing of time counts: the states of the engines and
sequencers (R360 to R362, Table 16.6), waits for the pool and for the regulators, and overdue responses (Table 16.5). -/

namespace Sys2Proof.Machine

/-! ### The scoreboard (R118) -/

/-- Two ranges overlap; off the block, whichever cores they come from. -/
def Range.meets (a b : Range) : Bool := a.mem == b.mem && (a.mem ≥ 5 || a.core == b.core) && a.lo < b.hi && b.lo < a.hi

/-- Some range of one list overlaps some range of another. -/
def meetsAny (l m : List Range) : Bool := l.any fun a => m.any a.meets

/-- A unit's queue of a core. -/
def Core.queue (k : Core) (u : Nat) : List Cmd := (k.queues.at? u).getD []

/-- Window or combining inbox n of a core. -/
def Core.win (k : Core) (n : Nat) : Win := (k.wins.at? n).getD {}

/-- The commands in flight on a core. -/
def Core.cmds (k : Core) : List Cmd := k.queues.toList.flatten

/-- An earlier command in flight, or a result not yet gone, that the scoreboard makes this one wait for (R118). -/
def Core.blocked (k : Core) (u : Nat) (d : Cmd) : Bool :=
  ((List.range 4).any fun v => v != u && (k.queue v).any fun e =>
    decide (e.num < d.num) && (meetsAny e.writes d.reads || meetsAny e.writes d.writes || meetsAny e.reads d.writes)) ||
  (k.relBuf.any fun r => r.slot == d.inst.slot && meetsAny r.ranges (d.reads ++ d.writes))

/-- The same, of a core of the block. -/
def State.blocked (s : State) (c : PCore) (u : Nat) (d : Cmd) : Bool := (s.core c).blocked u d

/-! ### Engines and sequencers (R360 to R362) -/

/-- The first reason of Table 16.6 that applies to an engine with a command queued or under way. The reasons that only the cycles
of the banks, of the shadow buffer and of the self-test decide (2, 3, 6, 9, 10, 11) are timing, and are counted as OTHER (log
entry 56). -/
def State.stallReason (s : State) (k : Core) : Nat :=
  if s.dbg.stopped then 1
  else if s.pwr.trans.isSome || s.pwr.gated then 4
  else match k.queue 0 with
    | d :: _ =>
      if d.op = 0x20 && d.started then 5
      else if !d.started && k.blocked 0 d then 7
      else if d.op = 0x21 && d.started && bit d.m0 13 then 8
      else 12
    | [] => 12

/-- n array cycles at an engine that has counted `busy` of them as BUSY in all: the cycles of work that was counted ahead of the
clock go by first, unless the block is stopped or the array gated; the rest are STALL or IDLE (R360). -/
def CycSt.engine (y : CycSt) (busy n : Nat) (still detail work : Bool) (reason : Nat) : CycSt :=
  let ahead := y.engAhead + (busy - y.engSeen)
  let pay := if still then 0 else min n ahead
  let r := n - pay
  let y := { y with engAhead := ahead - pay, engSeen := busy }
  if !work then { y with idle := y.idle + r }
  else { y with stall := y.stall + r, reasons := if detail then y.reasons.putN (reason - 1) ((y.reasons.at? (reason - 1)).getD 0 + r) else y.reasons }

/-- What a sequencer is doing: blocked in RECV, WAIT or TAKE, able to issue, or neither. -/
inductive SeqAct where
  | blocked
  | issuing
  | still
deriving DecidableEq, Repr

def Seq.act (q : Seq) : SeqAct :=
  if q.brkHalt || q.brkDrain then .still else
  match q.mode with
  | .recv => .blocked
  | .wait .. => .blocked
  | .take => .blocked
  | .atTake => .issuing
  | .run => .issuing
  | .posting .. => .issuing
  | .ending _ => .issuing
  | .halt => .still
  | .stopped => .still

/-- n fabric cycles at a sequencer that has issued `issued` instructions in all: each takes one; the cycles beyond in which its
instance could issue and does not are SEQ_STALL, and those in which it is blocked SEQ_BLOCKED (R210, Table 16.8). -/
def CycSt.sequencer (y : CycSt) (issued n : Nat) (detail : Bool) (a : SeqAct) : CycSt :=
  let ahead := y.seqAhead + (issued - y.seqSeen)
  let pay := min n ahead
  let y := { y with seqAhead := ahead - pay, seqSeen := issued }
  if !detail then y else
  match a with
  | .blocked => { y with seqBlocked := y.seqBlocked + (n - pay) }
  | .issuing => { y with seqStall := y.seqStall + (n - pay) }
  | .still => y

/-- n fabric and a array cycles at the units of a core. While the block is stopped-now only the engine's cycles count (R355). -/
def State.coreCycles (s : State) (c : PCore) (y : CycSt) (n a : Nat) : CycSt :=
  let k := s.core c
  let y := y.engine (k.counters.get 0) a (s.dbg.stopped || s.pwr.gated) s.cnt.detail (!(k.queue 0).isEmpty) (s.stallReason k)
  if s.dbg.stopped then y else y.sequencer (k.counters.get 19) n s.cnt.detail k.seq.act

/-- The counters of the cores are cleared; what runs ahead of the clock stands (R361). -/
def CycSt.clear (y : CycSt) (busy issued : Nat) : CycSt :=
  { engAhead := y.engAhead + (busy - y.engSeen), seqAhead := y.seqAhead + (issued - y.seqSeen) }

/-- The memory ports at which a spill item waits for its pitch's write regulator (R100, R192). -/
def State.spillWaits (s : State) : List Nat :=
  (s.ctxs.toList.filterMap fun x => x.spillq.head?.map fun it => it.addr / 256 % 16).eraseDups

/-- What n fabric cycles and a array cycles count (R361, R362). -/
def State.countCycles (s : State) (n a : Nat) : State :=
  if n = 0 then s else
  let s : State := { s with cnt := { s.cnt with cyc := s.cnt.cyc.mapFinIdx fun i y h => s.coreCycles ⟨i, h⟩ y n a } }
  if s.dbg.stopped then s else
  let s := if s.mkt.poolWait then s.count 0x1A05 n else s
  s.spillWaits.foldl (fun s p => s.count (0x1804 + 8 * p) n) s

/-! ### Overdue responses (Table 16.5) -/

/-- A write request of a memory port has had no response for 4,096 fabric cycles. -/
def State.overdue (s : State) (w : OutWrite) : Bool := !w.waits && !w.late && w.port ≠ 16 && decide (w.since + 4096 ≤ s.clk.cycle)

/-- Responses that have become overdue enter the hang rings of their ports, each once. -/
def State.noteOverdue (s : State) : State :=
  let l := s.outst.filter s.overdue
  if l.isEmpty then s else
  let t := l.foldl (fun s w => s.hang (oMem w.port.val) 0 0x41 w.slot (BitVec.ofNat 64 (w.addr / 64))) s
  { t with outst := s.outst.map fun w => if s.overdue w then { w with late := true } else w }

end Sys2Proof.Machine
end

