-- ==== Sys2Proof/Machine/Mesh.lean ====
section
/-! DEFINITION. Sys2Proof/Machine/Mesh.lean: message headers (R244), the delivery of items to cores and their routing
to link ports (R249, R270), and the answers that a receiving core sends. -/

namespace Sys2Proof.Machine

/-- Item kinds of Table 11.5. -/
def kMessage : Nat := 0
def kWrite : Nat := 1
def kRequest : Nat := 2
def kGrant : Nat := 3
def kNack : Nat := 4
def kWithdraw : Nat := 5

/-- The 32 header bytes of Table 11.5 as one number, word 0 lowest. -/
def MsgHdr.pack (h : MsgHdr) : BitVec 256 :=
  let w0 := (h.kind % 16) <<< 28 ||| (h.dstChip % 256) <<< 20 ||| (h.dstCore % 64) <<< 14 ||| (h.target % 16) <<< 10 ||| b2n h.window <<< 9 ||| h.dstSlot % 128
  let w1 := h.tag.toNat <<< 16 ||| (h.srcChip % 256) <<< 8 ||| (h.srcCore % 64) <<< 2
  let w3 := h.ctxGen.toNat <<< 20 ||| h.igen.toNat <<< 8 ||| h.reason % 256
  let w4 := h.dgen.toNat <<< 20
  BitVec.ofNat 256 (w0 ||| w1 <<< 32 ||| h.ctxId.toNat <<< 64 ||| w3 <<< 96 ||| w4 <<< 128 ||| (h.offset % 2 ^ 32) <<< 160 |||
    (h.units % 65536) <<< 192 ||| (h.gid % 256) <<< 224)

/-- A header read from its 32 bytes. -/
def MsgHdr.unpack (v : BitVec 256) : MsgHdr :=
  { kind := fld v 31 28, dstChip := fld v 27 20, dstCore := fld v 19 14, target := fld v 13 10, window := bit v 9
    dstSlot := fld v 6 0, tag := BitVec.ofNat 16 (fld v 63 48), srcChip := fld v 47 40, srcCore := fld v 39 34
    ctxId := BitVec.ofNat 32 (fld v 95 64), ctxGen := BitVec.ofNat 12 (fld v 127 116), igen := BitVec.ofNat 12 (fld v 115 104)
    reason := fld v 103 96, dgen := BitVec.ofNat 12 (fld v 159 148), offset := fld v 191 160, units := fld v 207 192
    gid := fld v 231 224 }

/-- Whether the reserved bits and the kind of a header are as R6 wants them. -/
def MsgHdr.clean (v : BitVec 256) : Bool :=
  fld v 31 28 ≤ 5 && fld v 8 7 = 0 && fld v 33 32 = 0 && fld v 147 128 = 0 && fld v 223 208 = 0 && fld v 255 232 = 0

/-- The virtual channel of an item kind (R267). -/
def vcOf (kind : Nat) : Nat := if kind = 2 || kind = 5 then 0 else if kind = 3 || kind = 4 then 1 else 2

/-- The port that the route table names for a chip (R270). -/
def State.routePort (s : State) (chip : Nat) : Option LPort :=
  match (s.mgmt.routes.find chip).getD 7 with
  | 0 => some 0
  | 1 => some 1
  | 2 => some 2
  | 3 => some 3
  | _ => none

/-- Traffic may join a port (R270, R276, R279): it is UP, or it retrains from there, which changes only timing. -/
def Port.usable (x : Port) : Bool := x.state = 5 || (x.retraining && x.loop = 0)

/-- The port on which traffic for a chip leaves (R270): src is 16 + the port that it came in on, or less for this chip's own.
What is forwarded needs a port that is UP; this chip's own waits in the queue of the port that the entry names. -/
def State.routeTo (s : State) (src chip : Nat) : Option LPort :=
  match s.routePort chip with
  | some p => if src < 16 || (s.port p).usable then some p else none
  | none => none

/-- A drop for want of a usable route (R270): reported and counted at the port of arrival. What this chip sends itself has
none, and is counted at port 0 (DESIGN CHOICE, log entry 80). -/
def State.noRoute (s : State) (src slot : Nat) : State :=
  let p := if src < 16 then 0 else src - 16
  (s.report { code := 0x7006, origin := BitVec.ofNat 16 (0x5000 + 16 * p), slot := slot }).count (0x1909 + 64 * p) 1

/-- An item joins a port's queues (R267, R269): src is the pitch it comes from, or 16 + the port it came in on. -/
def State.queueItem (s : State) (p : LPort) (src : Nat) (it : Item) : State :=
  s.modPort p fun x =>
    match vcOf it.hdr.kind with
    | 0 => { x with vc0 := x.vc0 ++ [it] }
    | 1 => { x with vc1 := x.vc1 ++ [it] }
    | _ => { x with vc2 := x.vc2 ++ [(src, it)] }

/-- The resident slot that a header's destination names on this chip: DST_SLOT where it holds the context, else the
slot with the CONTEXT_ID. -/
def State.hdrSlot (s : State) (h : MsgHdr) : Option Slot :=
  match slot? h.dstSlot with
  | some i => if (s.ctx i).resident then some i else allSlots.find? fun j => (s.ctx j).resident && (s.ctx j).id == h.ctxId
  | none => allSlots.find? fun j => (s.ctx j).resident && (s.ctx j).id == h.ctxId

/-- An item reaches the core it names on this chip; false where no core of the pitch is so numbered. -/
def State.toCore (s : State) (it : Item) : Bool × State :=
  match s.hdrSlot it.hdr with
  | some i =>
    match s.imageCore (s.ctx i).policy.pitch it.hdr.dstCore with
    | some c => (true, s.modCore c fun k => { k with meshIn := k.meshIn ++ [it] })
    | none => (false, s)
  | none => (false, s)

/-- The header of an answer to h (R253): back to its sender, with the GID and IGEN it carried. -/
def MsgHdr.answer (h : MsgHdr) (kind reason dstSlot chip : Nat) : MsgHdr :=
  { kind := kind, dstChip := h.srcChip, dstCore := h.srcCore, target := h.target, window := h.window, dstSlot := dstSlot
    tag := h.tag, srcChip := chip, srcCore := h.dstCore, ctxId := h.ctxId, igen := h.igen, reason := reason, gid := h.gid }

/-- The sender's slot for an answer: the context's own slot on this chip, the group's slot on another (R245). -/
def State.senderSlot (s : State) (h : MsgHdr) : Nat :=
  match s.hdrSlot h with
  | some i =>
    if h.srcChip = s.mgmt.chip then i.val
    else (((s.ctx i).group.memberPairs.find? fun p => p.1 == h.srcChip).map (·.2)).getD 0x7F
  | none => 0x7F

/-- This chip answers an item with a NACK of its own (R270). -/
def State.answerItem (s : State) (h : MsgHdr) (reason : Nat) : State :=
  let a : Item := { hdr := h.answer kNack reason (s.senderSlot h) s.mgmt.chip }
  if h.srcChip = s.mgmt.chip then (s.toCore a).2
  else match s.routeTo 0 h.srcChip with | some p => s.queueItem p 0 a | none => s.noRoute 0 a.slot

/-- An item is dropped for want of a usable route (R270): counted, LINK_ROUTE reported, a REQUEST answered with DEAD_CONTEXT and a
VC2 item with STALE. -/
def State.dropItem (s : State) (src : Nat) (it : Item) : State :=
  let s := s.noRoute src it.slot
  if it.hdr.kind = 2 then s.answerItem it.hdr 3 else if it.hdr.kind ≤ 1 then s.answerItem it.hdr 1 else s

/-- An item leaves for its destination (R270): to a core of this chip, or to the port its route names. Where no route is usable
it is dropped. -/
def State.sendItem (s : State) (src : Nat) (it : Item) : State :=
  if it.hdr.dstChip = s.mgmt.chip then
    match s.toCore it with
    | (true, s) => s
    | (false, s) => if it.hdr.kind ≤ 2 then s.answerItem it.hdr 3 else s
  else
    match s.routeTo src it.hdr.dstChip with
    | some p => s.queueItem p src it
    | none => s.dropItem src it

/-- The slot of the context that an answer belongs to (R285). -/
def State.ownerSlot (s : State) (h : MsgHdr) : Nat := match s.hdrSlot h with | some i => i.val | none => 0x7F

/-- A receiving core answers an arrival with a NACK and sends no payload (R253). -/
def State.nack (s : State) (c : PCore) (h : MsgHdr) (reason : Nat) : State :=
  let src := match s.pitchOf c with | some p => p.val | none => 0
  s.sendItem src { hdr := h.answer kNack reason (s.senderSlot h) s.mgmt.chip, slot := s.ownerSlot h }

/-- An arrival is dropped (R253): counted on the core and for the context, answered with a NACK. -/
def State.dropMsg (s : State) (c : PCore) (h : MsgHdr) (reason : Nat) : State :=
  let s := s.countCore c 23 1
  let s := match s.hdrSlot h with | some i => s.countCtx i 16 1 | none => s
  s.nack c h reason

end Sys2Proof.Machine
end

