-- ==== Sys2Proof/Machine/Kill.lean ====
section
/-! DEFINITION. Sys2Proof/Machine/Kill.lean: the one kill of a slice (Table 2.3, R76, R102), the teardown of a context
(R108), and FATAL_ERROR (R337). -/

namespace Sys2Proof.Machine

/-- The slots of 4 KiB that the transient extents of a context touch in one memory of a core (R55, R127). -/
def Core.ctxSlots (k : Core) (i : Slot) (mem : Nat) : List Nat :=
  (k.handles.filter fun e => e.slot == i && e.mem == mem && e.cls == 0).flatMap fun e =>
    (List.range (ceilDiv (e.base * 64 + e.size * 256) 4096 - e.base * 64 / 4096)).map (· + e.base * 64 / 4096)

/-- Presence slots of a memory made EMPTY. -/
def clearPres (m : KMap Pres) (l : List Nat) : KMap Pres := m.filter fun e => !l.contains e.1

/-- Zero the delta elements of a context's regions, and clear the slice's region state (R170). -/
def Core.clearDelta (k : Core) (i : Slot) : Core :=
  let mine := k.regions.filter fun r => r.slot == i
  { k with
    delta := mine.foldl (fun d r => d.clear (8 * r.off) (8 * r.len)) k.delta
    regions := k.regions.map fun r => if r.slot == i then { r with count := 0, clipped := false, retired := false } else r }

/-- A held request is for a ring inbox that its context declares on this core: it waits for the context's next slice (R253). -/
def Core.ringReq (k : Core) (h : MsgHdr) : Bool := !h.window && k.inboxes.any fun b => b.slot.val == h.dstSlot && b.num == h.target

/-- A window closes: its generation advances (R256). -/
def Win.shut (w : Win) : Win := { w with isOpen := false, gen := w.gen + 1, owner := none }

/-- A ring inbox is flushed and closed (R241, R247). -/
def Inbox.shut (b : Inbox) : Inbox :=
  { b with isOpen := false, gen := b.gen + 1, epoch := b.epoch + 1, head := 0, tail := 0, occ := 0, waitq := [] }

/-- The release pointer passes numbers that were discarded (R134); fuel. -/
def Core.passSeq (k : Core) : Nat → Core
  | 0 => k
  | n + 1 =>
    if k.relSkip.contains k.nextRel then
      Core.passSeq { k with relSkip := k.relSkip.erase k.nextRel, nextRel := k.nextRel + 1 } n
    else k

/-- The release pointer passes every number in a row that was discarded (R134): each takes its entry off the list. -/
def Core.skipSeq (k : Core) : Core := k.passSeq k.relSkip.length

/-- What a core without an instance does: halt in push mode, TAKE in pull mode (R214, R216). -/
def State.idleMode (s : State) (c : PCore) : SeqMode :=
  match s.pitchOf c with
  | some p => if (s.pit p).mode.getLsbD 1 then .take else .halt
  | none => .halt

/-- The sequencer gives up its instance (R216): mode m, nothing of the instance kept. -/
def Seq.abandon (q : Seq) (m : SeqMode) : Seq :=
  { q with mode := m, pend := [], inst := none, preemptible := false, ldw := none, heldRel := [], anyPost := false, wrote := [], lastRecv := none, brkDrain := false, brkHalt := false, skipPc := none, stepOne := false, stat := {}, killReq := false }

/-- The end of a context's work on one core: the rows of a kill that act on it. -/
def Core.endSlice (k : Core) (i : Slot) (idle : SeqMode) : Core :=
  let mineI := match k.seq.inst with | some x => x.slot == i | none => false
  let gone := (k.queues.toList.flatten.filter fun c => c.inst.slot == i).filterMap (·.seq)
  let gone2 := (k.relBuf.filter fun r => r.slot == i).map (·.seq)
  let seq := if mineI then k.seq.abandon idle else k.seq
  let seq := match seq.slot with | some r => if r.slot = i.val then { seq with slot := none } else seq | none => seq
  let k : Core := { k with
    seq := seq
    queues := k.queues.map fun q => q.filter fun c => c.inst.slot != i
    presA := clearPres k.presA (k.ctxSlots i 1)
    presP := clearPres k.presP (k.ctxSlots i 2)
    wins := k.wins.map fun w => match w.owner with | some o => if o.slot == i && w.isOpen then w.shut else w | none => w
    inboxes := k.inboxes.map fun b => if b.slot == i && b.isOpen then b.shut else b
    reqq := k.reqq.filter fun h => h.dstSlot != i.val || k.ringReq h
    given := k.given.filter fun g => g.1.dstSlot != i.val
    grants := k.grants.map fun g => match g with | some e => if e.slot == i then none else some e | none => none
    relBuf := k.relBuf.filter fun r => r.slot != i
    relSkip := k.relSkip ++ gone ++ (gone2.filter fun q => !gone.contains q)
    tables := k.tables.map fun t => match t with | some x => if x.owner == i then none else some x | none => none
    notices := k.notices.filter fun n => n.2.2 != i }
  (k.clearDelta i).skipSeq

/-- The CUT slot of Table 12.5. -/
def cutSlot : BitVec 256 := 8

/-- Items of the context that wait at a transmit port are discarded; a begun item is cut (R285). -/
def Port.endSlice (x : Port) (i : Slot) : Port :=
  let x : Port := { x with
    vc0 := x.vc0.filter fun t => t.slot != i.val
    vc1 := x.vc1.filter fun t => t.slot != i.val
    vc2 := x.vc2.filter fun t => t.2.slot != i.val }
  match x.txOpen with
  | some o => if o.item.slot = i.val then { x with txOpen := none, reliable := x.reliable ++ [cutSlot] } else x
  | none => x

/-- No task-store entry: the candidate of a pre-emption whose candidate has gone. -/
def noCand : Nat := 262144

/-- A pre-emption in flight when the slice of these instances ends: it lapses with its victim, whose core gives up the instance
with the slice. A kill whose candidate alone has gone is not void (R86; DEDUCED, log entry 75): its victim is pre-empted all the same. -/
def Preempt.after (x : Preempt) (gone : List Nat) : Option Preempt :=
  if gone.contains x.victim then none else if gone.contains x.cand then some { x with cand := noCand } else some x

/-- The Market's rows of a kill: instances, ready-list entries, matching-store entries of the slice flushed. -/
def Market.endSlice (m : Market) (i : Slot) : Market :=
  let gone := (m.tasks.filter fun e => e.2.slot == i).map (·.1)
  { m with
    tasks := m.tasks.filter fun e => e.2.slot != i
    matching := m.matching.filter fun e => e.2.slot != i
    ready := m.ready.map fun l => l.filter fun x => !gone.contains x
    preempt := m.preempt.map fun p => match p with | some x => x.after gone | none => none
    reserved := m.reserved.map fun p => match p with | some x => if gone.contains x.2 then none else some x | none => none }

/-- Requests of the context still waiting at other chips are withdrawn (R283): one WITHDRAW for each grant-table
entry whose REQUEST went to another chip and whose GRANT has not arrived. -/
def State.withdraws (s : State) (i : Slot) : List (Nat × Item) :=
  allCores.flatMap fun c =>
    let src := match s.pitchOf c with | some p => p.val | none => 0
    (s.core c).grants.toList.filterMap fun g => match g with
      | some e => if e.slot == i && !e.granted && e.hdr.dstChip != s.mgmt.chip
                  then some (src, { hdr := { e.hdr with kind := kWithdraw, units := 0 }, slot := 0x7F }) else none
      | none => none

/-- The requests that the end of a slice drops with DEAD_READER: those held for windows and combining inboxes, and those that
wait at the rings, which close (R247, R253). -/
def State.heldReqs (s : State) (i : Slot) : List (PCore × MsgHdr) :=
  allCores.flatMap fun c =>
    ((s.core c).reqq.filter fun h => h.dstSlot == i.val && !(s.core c).ringReq h).map (fun h => (c, h)) ++
    ((s.core c).inboxes.filter fun b => b.slot == i).flatMap fun b => b.waitq.map fun h => (c, h)

/-- Requests dropped with DEAD_READER (R253). -/
def State.dropReqs (s : State) (l : List (PCore × MsgHdr)) : State := l.foldl (fun s x => s.dropMsg x.1 x.2 2) s

/-- A core is halted at a breakpoint of a context whose set holds the Bell (R353). -/
def State.bellHeld (s : State) : Bool :=
  allCores.any fun c =>
    let q := (s.core c).seq
    q.brkHalt && match q.inst with | some x => (match (s.ctx x.slot).brk with | some b => b.hold | none => false) | none => false

/-- While such a core is halted the Bell timer holds (R353). -/
def State.takeHold (s : State) : State :=
  if s.dbg.holdFrom.isNone && s.bellHeld then { s with dbg := { s.dbg with holdFrom := some s.clk.time } } else s

/-- The Bell timer goes on once no such core is halted: the Bell is postponed by the time spent (R353). -/
def State.releaseHold (s : State) : State :=
  match s.dbg.holdFrom with
  | none => s
  | some t =>
    if s.bellHeld then s else
    { s with dbg := { s.dbg with holdFrom := none }, bel := { s.bel with last := s.bel.last + (s.clk.time - t) } }

/-- What the next BELL record counts (Table 16.10). -/
def State.countBell (s : State) (f : Nat × Nat × Nat × Nat → Nat × Nat × Nat × Nat) : State :=
  { s with bel := { s.bel with tallyCounts := f s.bel.tallyCounts } }

/-- The kill enters the ring of every sequencer that runs an instance of the context (Table 16.5). -/
def State.hangKills (s : State) (i : Slot) : State :=
  allCores.foldl (fun s c =>
    let q := (s.core c).seq
    match q.inst with
    | some x => if x.slot = i then s.hang (oCore c) 0 0x06 i.val (BitVec.ofNat 64 (q.pc.toNat ||| x.task <<< 18 ||| x.gen.toNat <<< 36)) else s
    | none => s) s

/-- The kill of a context's slice in service: the kill rows of Table 2.3. The step counter, the versions and the ring
stand; DIRTY granules clear at row B+1 of the next Bell. -/
def State.killSlice (s : State) (i : Slot) : State :=
  if (s.ctx i).slice.isNone then s else
  let w := s.withdraws i
  let held := s.heldReqs i
  let gen : W64 := BitVec.ofNat 64 ((s.ctx i).igen.toNat <<< 18)
  let s := (s.hang (oMarket 0) 0 0x33 i.val gen).hangKills i
  let s : State := { s with
    cores := s.cores.mapFinIdx fun n k h => k.endSlice i (s.idleMode ⟨n, h⟩)
    ports := s.ports.map fun p => p.endSlice i
    mkt := s.mkt.endSlice i }
  let s := s.modCtx i fun c => { c with
    slice := none, draining := true, flows := [], spillCursor := 0, spillq := [], spillLive := 0, spillSaid := false, recompSaid := false
    arena := [], statRun := [], votes := [], held := none, inDoubt := false }
  let s := w.foldl (fun s x => s.sendItem x.1 x.2) s
  let s := (s.dropReqs held).bumpEpoch (0x4000 + i.val)
  let s := (s.releaseHold.pruneStale.countCtx i 11 1).countBell fun t => (t.1, t.2.1, t.2.2.1 + 1, t.2.2.2)
  s.hang (oMarket 0) 0 0x34 i.val gen

/-- A waiting image is discarded; its LOAD_IMAGE completes with CTX_STATE (R65). -/
def State.dropPending (s : State) (i : Slot) (code : W16 := 0x3110) : State :=
  match (s.ctx i).pending with
  | some (_, comp) =>
    let s : State := { s with bel := { s.bel with installs := s.bel.installs.erase i } }
    (s.modCtx i fun c => { c with pending := none, installWait := false }).finish comp code
  | none => s

/-! ### A slot becomes FREE (Table 5.2) -/

/-- A slot becomes FREE: what belongs to its context leaves it. SEED and FREE stand; only CLOSE sets them to 0 (R322). -/
def State.emptySlot (s : State) (i : Slot) : State :=
  s.modCtx i fun c => { c with
    state := .free, image := none, pending := none, installWait := false, bindings := [], sources := [], ver := [], desc := none, slice := none
    flows := [], statRun := [], statCom := [], fmt := [], carry := {}, act := {}, seed := 0, freeOn := false
    brk := none, held := none, inDoubt := false, evict := none, swapIn := none, policyNext := none, setupNext := none, groupNext := none, backingNext := none
    group := {}, nacks := 0, blocked := 0, noResume := false, reload := false, votes := [], awaits := false, merging := false }

/-- What the Tally of a context is made from, with its outcome. -/
def Ctx.tallyRec (c : Ctx) (o : Nat × W16) : TallyRec :=
  { id := c.id, step := if c.hadSlice then c.tallyStep else c.step, act := c.act, carry := c.carry, seq := c.tallySeq, outcome := o }

/-- The Tally that a context closed in the period has earned is kept for the Bell (R111); its remainders are lost (R112). -/
def Ctx.keepTally (c : Ctx) : Ctx :=
  { c with
    closed := match c.outcome with | some o => c.closed ++ [{ c.tallyRec o with carry := {} }] | none => c.closed
    outcome := none, hadSlice := false }

/-! ### What a descriptor owes at its end -/

/-- The writes of a slice that has ended which are not yet acknowledged: its descriptor's completion waits for them (R298). -/
def State.oweWrites (s : State) (i : Slot) (c : CompRef) : State :=
  { s with outst := s.outst.map fun w => match w.owner with
      | .slice j _ _ => if j = i then { w with owner := .desc c } else w
      | .spill j _ => if j = i then { w with owner := .desc c } else w
      | _ => w }

/-- The SUBMIT_SLICE of the context that was taken and is not finished ends with a code: its completion carries a step and
VBUF (R296, R298). -/
def State.endSubmit (s : State) (i : Slot) (code : W16) (step : W64) : State :=
  match (s.ctx i).desc with
  | some d => ((s.modCtx i fun c => { c with desc := none }).oweWrites i d.comp).finish d.comp code step (s.ctx i).vbuf
  | none => s

/-- As above, with the context's step. -/
def State.endDesc (s : State) (i : Slot) (code : W16) : State := s.endSubmit i code (s.ctx i).step

/-- The codes that make a later RESUME rejected: MEM_UE_COMMITTED, CORE_LOST, SUPPLY_LOST (R108). -/
def noResumeCode (code : W16) : Bool := code = 0x5003 || code = 0x4041 || code = 0x9008

/-- Every request held at a core for a context. -/
def State.allReqs (s : State) (i : Slot) : List (PCore × MsgHdr) :=
  allCores.flatMap fun c => ((s.core c).reqq.filter fun h => h.dstSlot == i.val).map fun h => (c, h)

/-- The flush of a context's own queues at its teardown (R241): its held requests, which are dropped with DEAD_READER, and
where no kill has done so its inbox rings and its spill queue. -/
def State.flushOwn (s : State) (i : Slot) (killed : Bool) : State :=
  let held := s.allReqs i ++ if killed then [] else s.heldReqs i |>.filter fun x => !(s.core x.1).reqq.contains x.2
  let s : State := { s with cores := s.cores.map fun k => { k with
    reqq := k.reqq.filter fun h => h.dstSlot != i.val
    inboxes := if killed then k.inboxes else k.inboxes.map fun b => if b.slot == i then b.shut else b } }
  let s := if killed then s else (s.modCtx i fun c => { c with spillq := [] }).bumpEpoch (0x4000 + i.val)
  (s.dropReqs held).pruneStale

/-- Teardown (R108). A FREE slot is never torn down; for a TORN one the fault is reported and otherwise lapses. A context
whose slice it kills is not admitted again before the next Bell, at whose row B+1 its DIRTY granules clear (R29, R102). -/
def State.teardown (s : State) (i : Slot) (code : W16) (detail : BitVec 128 := 0) (origin : W16 := 0x6000) (core : Option PCore := none) : State :=
  let r : Report := { code := code, slot := i.val, origin := origin, detail := detail, core := core }
  match (s.ctx i).state with
  | .free => s
  | .torn => (s.modCtx i fun c => { c with noResume := c.noResume || noResumeCode code }).report r
  | _ =>
    let had := (s.ctx i).slice.isSome
    let s := s.report r true
    let s := (s.killSlice i).flushOwn i had
    let s := s.endDesc i code
    let s := s.dropPending i
    let s := match (s.ctx i).swapIn with
      | some w => match w.comp with | some c => s.finish c code | none => s
      | none => s
    let s := match (s.ctx i).evict with
      | some e => match e.comp with | some c => s.finish c 0x3110 | none => s
      | none => s
    s.modCtx i fun c => { c with
      state := .torn, ctxGen := c.ctxGen + 1, flows := [], brk := none, swapIn := none, evict := none, held := none, inDoubt := false
      barred := c.barred || had, outcome := some (3, code), noResume := c.noResume || noResumeCode code, reload := c.reload || code == 0x5002 }

/-- An instance's fault ends its context (R108, R216): the sequencer has stopped at the instruction. -/
def State.fault (s : State) (c : PCore) (i : Slot) (code : W16) : State :=
  let q := (s.core c).seq
  let t := match q.inst with | some x => (x.task, x.gen.toNat) | none => (0, 0)
  let s := s.hang (oCore c) 0 0x04 i.val (BitVec.ofNat 64 (q.pc.toNat ||| t.1 <<< 18 ||| t.2 <<< 36 ||| code.toNat <<< 48))
  s.teardown i code 0 (oCore c) (some c)

/-- FATAL_ERROR (R337): every slice killed, every resident context torn down, Bells and ring reading stopped. -/
def State.fatalError (s : State) : State :=
  if s.errs.fatal then s else
  let s := s.note 0x5006
  let s := allSlots.foldl (fun s i => s.teardown i 0x5006) s
  { s with errs := { s.errs with fatal := true }, bel := { s.bel with running := false, locked := false } }

end Sys2Proof.Machine
end

