-- ==== Sys2Proof/Machine/Scratch.lean ====
section
/-! DEFINITION. Sys2Proof/Machine/Scratch.lean: the scratch memories of a core, translation of operands (R126), versioned
reads and writes (R27 to R30), and presence (R127 to R132). -/

namespace Sys2Proof.Machine

/-- A memory of a core by its MEMORY code (Table 6.2). -/
def Core.mem (k : Core) : Nat → Memory
  | 0 => k.weight
  | 1 => k.act
  | 2 => k.psum
  | 3 => k.delta
  | _ => k.base

/-- A memory of a core replaced. -/
def Core.setMem (k : Core) (m : Nat) (x : Memory) : Core :=
  match m with
  | 0 => { k with weight := x }
  | 1 => { k with act := x }
  | 2 => { k with psum := x }
  | 3 => { k with delta := x }
  | _ => { k with base := x }

/-- The size in bytes of a memory of a core (Table 6.2, R120). -/
def memSize : Nat → Nat
  | 0 => 6291456
  | 1 => 3145728
  | _ => 1048576

/-- The first bank of a memory (Table 6.2). -/
def firstBank : Nat → Nat
  | 0 => 0
  | 1 => 12
  | 2 => 18
  | 3 => 22
  | _ => 20

/-- The bank of byte address a of a memory (R120, R121). -/
def bankOf (m a : Nat) : Nat := firstBank m + a / 524288

/-- The handle-table entry of a context's handle on a core (R126). -/
def Core.handle (k : Core) (i : Slot) (h : Nat) : Option HEnt := k.handles.find? fun e => e.slot == i && e.h == h

/-- The faults of translation (R126), in its order; len in bytes. -/
def Core.translate (k : Core) (i : Slot) (h off len : Nat) (write : Bool) : Except W16 HEnt :=
  match k.handle i h with
  | none => .error 0x4003
  | some e =>
    if off + len > e.size * 256 then .error 0x4004
    else if write && e.cls == 2 then .error 0x2007
    else if write && e.cls == 3 then .error 0x4005
    else .ok e

/-- TENSOR_ID of a handle of the context's image (Table 3.2). -/
def Ctx.tidOf (c : Ctx) (h : Nat) : Nat :=
  match c.image with
  | some im => ((im.handles.find? fun r => r.h == h).map (·.tid)).getD 0
  | none => 0

/-- CUR and DIRTY replaced. -/
def Ctx.setGran (c : Ctx) (k : VerKey) (g : Gran) : Ctx :=
  if c.ver.any fun e => e.1 == k then { c with ver := c.ver.map fun e => if e.1 == k then (k, g) else e }
  else { c with ver := c.ver ++ [(k, g)] }

/-- The key of a handle in the handle and version table. -/
def Ctx.verKey (c : Ctx) (core : PCore) (e : HEnt) : VerKey :=
  if e.mem ≥ 5 then .offBlock (c.tidOf e.h) else .scratch core e.h

/-- The granule of a byte offset: 4 KiB, or the whole tensor in host memory (R27, R30). -/
def granOf (e : HEnt) (off : Nat) : Nat := if e.mem = 6 then 0 else off / 4096

/-- The two copies of an off-block tensor: its binding's addresses, or the slice's for a transient handle (R300, R302). -/
def Ctx.copies (c : Ctx) (e : HEnt) : Nat × Nat :=
  let tid := c.tidOf e.h
  let here := match c.desc with | some d => (d.binds.find? fun b => b.1 == tid).map (·.2) | none => none
  let there := (c.bindings.find? fun b => b.tid == tid).map fun b => (b.addr0, b.addr1)
  if e.cls = 0 then match here with | some a => (a, a) | none => there.getD (0, 0)
  else there.getD (0, 0)

/-- The byte address of copy n of a handle's extent. -/
def Ctx.copyBase (c : Ctx) (e : HEnt) (second : Bool) : Nat :=
  if e.mem ≥ 5 then (if second then (c.copies e).2 else (c.copies e).1)
  else e.base * 64 + (if second then e.size * 256 else 0)

/-- Whether a read of a granule goes to the second copy: CUR, or the alternate where DIRTY in the pending view (R29). -/
def Ctx.readSecond (c : Ctx) (core : PCore) (e : HEnt) (off : Nat) (pending : Bool) : Bool :=
  if e.cls ≠ 1 then false else
  let g := c.gran (c.verKey core e)
  let n := granOf e off
  let cur := g.cur.contains n
  if pending && g.dirty.contains n then !cur else cur

/-- The address at which a write of a byte offset lands: the alternate copy of a versioned tensor's granule (R28). -/
def Ctx.writeAddr (c : Ctx) (core : PCore) (e : HEnt) (off : Nat) : Nat :=
  c.copyBase e (e.cls == 1 && !(c.gran (c.verKey core e)).cur.contains (granOf e off)) + off

/-- Raw bytes of a memory code at an address, on a core or off the block. -/
def State.rawRead (s : State) (core : PCore) (mem addr n : Nat) : List Byte :=
  if mem = 5 then s.devRead addr n else if mem = 6 then s.hostRead addr n
  else ((s.core core).mem mem).readBytes addr n

/-- Scratch bytes enter the activity of a context in units of 64 bytes (Table 5.6, R363). -/
def State.countScr (s : State) (i : Slot) (bytes : Nat) : State :=
  let n := ceilDiv bytes 64
  (s.countCtx i 4 n).modCtx i fun c => { c with act := { c.act with scr := c.act.scr + n } }
/-- A request of n units spends an enabled bucket's tokens (R100). The wait for tokens that are not there yet is timing,
and is left out (log entry 6): such a request leaves the bucket empty. -/
def Bucket.spend (b : Bucket) (n : Nat) : Bucket := if fld b.live 15 0 = 0 then b else { b with count := b.count - 256 * n }

/-- A request of n units proceeds (R100). -/
def Bucket.passes (b : Bucket) (n : Nat) : Bool := fld b.live 15 0 = 0 || decide (256 * n ≤ b.count)

/-- The fabric cycles that a request of n units waits for an enabled bucket's tokens (R100). -/
def Bucket.wait (b : Bucket) (n : Nat) : Nat := if fld b.live 15 0 = 0 then 0 else ceilDiv (256 * n - b.count) (fld b.live 15 0)

/-- A request at a memory port waits for its regulator (Table 16.7). -/
def State.countWait (s : State) (addr cycles : Nat) : State := s.count (0x1804 + 8 * (memPort addr).val) cycles

/-- Units read through a memory port, under the pitch's read regulator. -/
def State.countRd (s : State) (i : Slot) (addr bytes : Nat) : State :=
  let n := ceilDiv bytes 64
  let s := s.countWait addr ((s.pit (s.ctx i).policy.pitch).rd.wait n)
  ((s.countCtx i 5 n).modCtx i fun c => { c with act := { c.act with memrd := c.act.memrd + n } }).modPit (s.ctx i).policy.pitch
    fun p => { p with rd := p.rd.spend n }
/-- Units written through a memory port, under the pitch's write regulator. -/
def State.countWr (s : State) (i : Slot) (addr bytes : Nat) : State :=
  let n := ceilDiv bytes 64
  let s := s.countWait addr ((s.pit (s.ctx i).policy.pitch).wr.wait n)
  ((s.countCtx i 6 n).modCtx i fun c => { c with act := { c.act with memwr := c.act.memwr + n } }).modPit (s.ctx i).policy.pitch
    fun p => { p with wr := p.wr.spend n }

/-- One beat of a spill queue (R192): up to the next 256-byte boundary of its head item, while the pitch's write regulator
lets it proceed (R100); none where the queue is empty or waits. -/
def State.spillBeat (s : State) (i : Slot) : Option State :=
  match (s.ctx i).spillq with
  | [] => none
  | it :: t =>
    let b := it.bytes.take (256 - it.addr % 256)
    let rest := it.bytes.drop b.length
    let n := ceilDiv b.length 64
    if !(s.pit (s.ctx i).policy.pitch).wr.passes n then none else
    let s := s.modCtx i fun c => { c with spillq := if rest.isEmpty then t else { it with addr := it.addr + b.length, bytes := rest } :: t }
    let s := if rest.isEmpty then s.taken 4 i.val (some i) else s
    some (if b.isEmpty then s else ((s.devWrite it.addr b (.spill i it.core)).countWr i it.addr b.length).countCtx i 17 n)

/-- A spill queue drains to the spill data as far as its regulator lets it; fuel. -/
def State.spillBeats (s : State) (i : Slot) : Nat → State
  | 0 => s
  | f + 1 => match s.spillBeat i with | some s => s.spillBeats i f | none => s

/-- As far as it can. -/
def State.drainSpill (s : State) (i : Slot) : State :=
  s.spillBeats i (natSum ((s.ctx i).spillq.map fun it => 2 + it.bytes.length / 256))

/-- The activity of an access to a memory code. -/
def State.countAcc (s : State) (i : Slot) (mem : Nat) (write : Bool) (addr bytes : Nat) : State :=
  if mem = 5 then
    if write then s.countWr i addr bytes else (s.readReq false addr bytes (.ctx i)).countRd i addr bytes
  else if mem = 6 then (if write then s else s.readReq true addr bytes (.ctx i))
  else s.countScr i bytes

/-- Raw bytes written at an address of a memory code. -/
def State.rawWrite (s : State) (core : PCore) (mem addr : Nat) (bytes : List Byte) (o : WOwner) : State :=
  if bytes.isEmpty then s
  else if mem = 5 then s.devWrite addr bytes o else if mem = 6 then s.hostWrite addr bytes o
  else s.modCore core fun k => k.setMem mem ((k.mem mem).writeBytes addr bytes)

/-- The lengths of the pieces of [off, off + n) that lie in one granule each (R126). -/
def pieces (e : HEnt) : Nat → Nat → Nat → List (Nat × Nat)
  | 0, _, _ => []
  | fuel + 1, off, n =>
    if n = 0 then [] else
    if e.cls ≠ 1 || e.mem = 6 then [(off, n)]
    else
      let k := min n (4096 - off % 4096)
      (off, k) :: pieces e fuel (off + k) (n - k)

/-- The bytes of a handle from an offset, in the view asked for (R29, R126). -/
def State.readH (s : State) (core : PCore) (i : Slot) (e : HEnt) (off n : Nat) (pending : Bool) : List Byte :=
  let c := s.ctx i
  (pieces e (n / 4096 + 2) off n).flatMap fun p =>
    s.rawRead core e.mem (c.copyBase e (c.readSecond core e p.1 pending) + p.1) p.2

/-- One piece written to the alternate copy of its granule (R28): a first write that does not cover the granule copies
the current copy first. -/
def State.writePiece (s : State) (core : PCore) (i : Slot) (e : HEnt) (off : Nat) (bytes : List Byte) (o : WOwner) : State :=
  let c := s.ctx i
  if e.cls ≠ 1 then s.rawWrite core e.mem (c.copyBase e false + off) bytes o
  else
    let key := c.verKey core e
    let g := c.gran key
    let n := granOf e off
    let cur := g.cur.contains n
    let gsize := if e.mem = 6 then e.size * 256 else min 4096 (e.size * 256 - n * 4096)
    let s := if g.dirty.contains n then s else
      let start := if e.mem = 6 then 0 else n * 4096
      let s := if bytes.length ≥ gsize then s else
        let src := c.copyBase e cur + start
        let old := s.rawRead core e.mem src gsize
        ((s.countAcc i e.mem false src gsize).countAcc i e.mem true (c.copyBase e (!cur) + start) gsize).rawWrite core e.mem (c.copyBase e (!cur) + start) old o
      s.modCtx i fun c => c.setGran key { g with dirty := n :: g.dirty }
    s.rawWrite core e.mem ((s.ctx i).copyBase e (!cur) + off) bytes o

/-- Bytes written through a handle from an offset. -/
def State.writeH (s : State) (core : PCore) (i : Slot) (e : HEnt) (off : Nat) (bytes : List Byte) (o : WOwner) : State :=
  (pieces e (bytes.length / 4096 + 2) off bytes.length).foldl (fun s p =>
    s.writePiece core i e p.1 ((bytes.drop (p.1 - off)).take p.2) o) s

/-! ### Presence -/

/-- The presence map of activation or partial-sum memory. -/
def Core.pres (k : Core) (mem : Nat) : KMap Pres := if mem = 1 then k.presA else k.presP
/-- The presence map replaced; an EMPTY slot has no entry. -/
def Core.setPres (k : Core) (mem n : Nat) (p : Pres) : Core :=
  let f (m : KMap Pres) : KMap Pres := if p.state = 0 then m.erase n else m.insert n p
  if mem = 1 then { k with presA := f k.presA } else { k with presP := f k.presP }
/-- Presence of one slot. -/
def Core.presAt (k : Core) (mem n : Nat) : Pres := ((k.pres mem).find n).getD {}

/-- A handle that declares a ring inbox (R246). -/
def HEnt.isRing (e : HEnt) : Bool := e.h ≥ 240 && e.mem == 1 && e.cls == 0

/-- Presence applies to slots under transient handles of activation and partial-sum memory (R127), not to a declared
ring inbox (R246). -/
def HEnt.hasPres (e : HEnt) : Bool := (e.mem == 1 || e.mem == 2) && e.cls == 0 && !e.isRing

/-- An address register names a declared ring inbox, which only the inbox machinery and RECV touch (R246). -/
def Core.ringNamed (k : Core) (i : Slot) (h : Nat) : Bool := match k.handle i h with | some e => e.isRing | none => false

/-- The slots that the byte ranges of a handle touch. -/
def slotsOf (e : HEnt) (rs : List (Nat × Nat)) : List Nat :=
  if !e.hasPres then [] else
  (rs.flatMap fun r => if r.2 = 0 then [] else
    let a := e.base * 64 + r.1
    (List.range ((a + r.2 - 1) / 4096 + 1 - a / 4096)).map (· + a / 4096)).eraseDups

/-- Reads of these slots by an instance of core x: SLOT_EMPTY where Table 6.6 has it. -/
def Core.readOk (k : Core) (x : PCore) (mem : Nat) (l : List Nat) : Bool :=
  l.all fun n => let p := k.presAt mem n; p.state == 2 || (p.state == 1 && p.owner == x.val)

/-- Writes of these slots by an instance of core x: SLOT_BUSY where Table 6.6 has it. -/
def Core.writeOk (k : Core) (x : PCore) (mem : Nat) (l : List Nat) : Bool :=
  l.all fun n => let p := k.presAt mem n; p.state == 0 || (p.state == 1 && p.owner == x.val)

/-- The fill of a write (Table 6.6): FILLING, with the attributes of the latest write. -/
def Core.fill (k : Core) (x : PCore) (mem : Nat) (l : List Nat) (priv : Bool) (readers : Nat) : Core :=
  l.foldl (fun k n => k.setPres mem n { state := 1, owner := x.val, readers := readers, priv := priv }) k

/-- One release applied (Table 6.6). -/
def Core.release (k : Core) (mem n : Nat) : Core :=
  let p := k.presAt mem n
  if p.state = 2 then
    if p.readers > 1 then k.setPres mem n { p with readers := p.readers - 1 }
    else if p.readers = 1 then k.setPres mem n {}
    else k
  else k

/-- A POST or DONE of the instance on core x changes the slots that it is filling on this core (Table 6.6). -/
def Core.publish (k : Core) (x : PCore) (isDone : Bool) : Core :=
  let f (m : KMap Pres) : KMap Pres := m.filterMap fun e =>
    let p := e.2
    if p.state == 1 && p.owner == x.val then
      if !p.priv then some (e.1, { p with state := 2 }) else if isDone then none else some e
    else some e
  { k with presA := f k.presA, presP := f k.presP }

/-- The slots that a pre-emption kill empties: those the instance on core x is filling (Table 6.6). -/
def Core.unfill (k : Core) (x : PCore) : Core :=
  let f (m : KMap Pres) : KMap Pres := m.filter fun e => !(e.2.state == 1 && e.2.owner == x.val)
  { k with presA := f k.presA, presP := f k.presP }

/-- Releases due from reads of FULL slots: held until the first POST, applied at once after it (R129). -/
def State.dueReleases (s : State) (c : PCore) (mem : Nat) (l : List Nat) : State :=
  let full := l.filter fun n => ((s.core c).presAt mem n).state == 2
  if (s.core c).seq.anyPost then s.modCore c fun k => full.foldl (fun k n => k.release mem n) k
  else s.modSeq c fun q => { q with heldRel := q.heldRel ++ full.map fun n => (mem, n) }

/-- The held releases are applied together (R129). -/
def State.applyHeld (s : State) (c : PCore) : State :=
  let l := (s.core c).seq.heldRel
  (s.modCore c fun k => l.foldl (fun k r => k.release r.1 r.2) k).modSeq c fun q => { q with heldRel := [], anyPost := true }

/-! ### Pre-emptibility (R74, R217) -/

/-- The instance on a core is no longer pre-emptible: STATE 3 becomes 4. -/
def State.endPre (s : State) (c : PCore) : State :=
  match (s.core c).seq.inst with
  | none => s
  | some x =>
    let s := s.modSeq c fun q => { q with preemptible := false }
    match s.mkt.tasks.find x.idx with
    | some e => if e.state = 3 then { s with mkt := { s.mkt with tasks := s.mkt.tasks.insert x.idx { e with state := 4 } } } else s
    | none => s

end Sys2Proof.Machine
end

