-- ==== Sys2Proof/Machine/Seq.lean ====
section
/-! DEFINITION. Sys2Proof/Machine/Seq.lean: the sequencer: fetch and issue (R210, R218, R219), the scalar instructions
(Table 10.4), and BRK (R233). -/

namespace Sys2Proof.Machine

/-! ### Registers -/

/-- General register i. -/
def Seq.sr (q : Seq) (i : Nat) : W64 := (q.s.at? i).getD 0
/-- Address register i. -/
def Seq.ar (q : Seq) (i : Nat) : W64 := (q.a.at? i).getD 0
/-- General register i written. -/
def Seq.setS (q : Seq) (i : Nat) (v : W64) : Seq := { q with s := q.s.putN i v }
/-- Address register i written. -/
def Seq.setA (q : Seq) (i : Nat) (v : W64) : Seq := { q with a := q.a.putN i v }

/-- HANDLE of an address register (Table 10.1). -/
def arHandle (v : W64) : Nat := fld v 63 56
/-- LEN of an address register, in 64-byte units. -/
def arLen (v : W64) : Nat := fld v 55 32
/-- OFFSET of an address register, in 64-byte units. -/
def arOff (v : W64) : Nat := fld v 31 0
/-- An address register from its fields. -/
def arMake (h len off : Nat) : W64 := BitVec.ofNat 64 ((h % 256) <<< 56 ||| (len % 2 ^ 24) <<< 32 ||| off % 2 ^ 32)

/-- The sign extension of a 16-bit immediate to 64 bits (R220). -/
def sext16 (n : Nat) : W64 := (BitVec.ofNat 16 n).signExtend 64

/-! ### Fetch -/

/-- The word at an image-relative address of an instance's kernel, from the core's instruction memory (R63, R208). -/
def State.kernelWord (s : State) (c : PCore) (x : Inst) (pc : Nat) : W32 :=
  BitVec.ofNat 32 (leNat ((s.core c).imem.readBytes (x.base + 4 * pc) 4))

/-- A breakpoint of the instance's context names this PC (R351). -/
def State.brkAt (s : State) (x : Inst) (pc : BitVec 14) : Bool :=
  match (s.ctx x.slot).brk with
  | some b => b.pcs.any fun p => p != 0xFFFF && p.toNat == pc.toNat
  | none => false

/-- What a fetch finds: the sequencer issues nothing now, or the fetched instruction faults, or it is the one asked for. -/
inductive Fetch where
  | held
  | bad (x : Inst) (code : W16)
  | ok (x : Inst)
deriving DecidableEq, Repr

/-- The slice of a context waits for its group's decision: its pending state stays unchanged (R44), so its instances issue
nothing, its commands stand still and its writes do not leave. -/
def State.frozen (s : State) (i : Slot) : Bool := (s.ctx i).held.isSome

/-- The fetch of the instruction with an opcode and operand bits on a core. -/
def State.fetch (s : State) (c : PCore) (op : BitVec 6) (w : BitVec 26) : Fetch :=
  let q := (s.core c).seq
  if !s.runs || q.brkDrain || q.brkHalt then .held else
  match q.mode, q.inst with
  | .run, some x =>
    if s.frozen x.slot then .held else
    if q.pc.toNat ≥ x.klen / 4 then .bad x 0x4031 else
    let v := s.kernelWord c x q.pc.toNat
    if s.brkAt x q.pc && q.skipPc != some q.pc then .held
    else if (decodeSeqWord c v).isNone then .bad x 0x4030
    else if v = seqWord op w then .ok x
    else .held
  | _, _ => .held

/-- An instruction has been issued and execution goes on at a word address (R208). -/
def State.goOn (s : State) (c : PCore) (pc : Nat) : State :=
  (s.countCore c 19 1).modSeq c fun q => { q with
    pc := BitVec.ofNat 14 pc, skipPc := none, stepOne := false
    brkDrain := q.brkDrain || q.stepOne, brkStep := q.brkStep || q.stepOne }

/-- Execution goes on at the next word; past the end of 16,384 words the fetch faults (R219). -/
def State.goNext (s : State) (c : PCore) : State :=
  let q := (s.core c).seq
  let s := s.goOn c (q.pc.toNat + 1)
  if q.pc.toNat + 1 ≥ 16384 then
    match q.inst with
    | some x => s.fault c x.slot 0x4031
    | none => s
  else s

/-- The instruction of this opcode on a core: nothing where it is not the next to issue, the fault of the fetch, or the
body (R210, R218). -/
def State.issue (s : State) (c : PCore) (op : BitVec 6) (w : BitVec 26) (body : Inst → State → State) : State :=
  match s.fetch c op w with
  | .held => s
  | .bad x code => s.fault c x.slot code
  | .ok x => body x s

/-- The body of an instruction whose fields give an optional fault; registers that it names and that wait for a
command's result stall it (R210). -/
def State.scalar (s : State) (c : PCore) (x : Inst) (fault : Option W16) (regs : List Nat) (go : Seq → State) : State :=
  match fault with
  | some code => s.fault c x.slot code
  | none => if regs.any fun r => (s.core c).seq.pend.contains r then s else go (s.core c).seq

/-- A scalar instruction that writes a general register. -/
def State.toReg (s : State) (c : PCore) (op : BitVec 6) (w : BitVec 26) (fault : Option W16) (regs : List Nat) (d : Nat) (f : Seq → W64) : State :=
  s.issue c op w fun x s => s.scalar c x fault (d :: regs) fun q => (s.modSeq c fun q' => q'.setS d (f q)).goNext c

/-! ### Fields of Table 10.3 -/

def fD (w : BitVec 26) : Nat := fld w 25 21
def fA (w : BitVec 26) : Nat := fld w 20 16
def fB (w : BitVec 26) : Nat := fld w 15 11
def fImm (w : BitVec 26) : Nat := fld w 15 0
def fFn6 (w : BitVec 26) : Nat := fld w 5 0
def fAD (w : BitVec 26) : Nat := fld w 25 22
def fAA (w : BitVec 26) : Nat := fld w 21 18
def fAB (w : BitVec 26) : Nat := fld w 17 14
def fSB (w : BitVec 26) : Nat := fld w 17 13

/-- ILLEGAL_OP where a condition on the fields fails (R218). -/
def illegalUnless (b : Bool) : Option W16 := if b then none else some 0x4030

/-! ### Arithmetic (Table 10.4) -/

/-- The operation of ALU by FN. -/
def aluOp (fn : Nat) (a b : W64) : W64 :=
  let n := fld b 5 0
  match fn with
  | 0 => a + b
  | 1 => a - b
  | 2 => a &&& b
  | 3 => a ||| b
  | 4 => a ^^^ b
  | 5 => a <<< n
  | 6 => a >>> n
  | 7 => a.sshiftRight n
  | 8 => a * b
  | 9 => if a.slt b then 1 else 0
  | 10 => if a.ult b then 1 else 0
  | 11 => if a.slt b then a else b
  | 12 => if a.slt b then b else a
  | 13 => if a.ult b then a else b
  | _ => if a.ult b then b else a

def State.alu (s : State) (c : PCore) (w : BitVec 26) : State :=
  s.toReg c 0x01 w (illegalUnless (fld w 10 6 == 0 && fFn6 w ≤ 14)) [fA w, fB w] (fD w)
    fun q => aluOp (fFn6 w) (q.sr (fA w)) (q.sr (fB w))

def State.addi (s : State) (c : PCore) (w : BitVec 26) : State :=
  s.toReg c 0x02 w none [fA w] (fD w) fun q => q.sr (fA w) + sext16 (fImm w)

def State.andi (s : State) (c : PCore) (w : BitVec 26) : State :=
  s.toReg c 0x03 w none [fA w] (fD w) fun q => q.sr (fA w) &&& BitVec.ofNat 64 (fImm w)

def State.ori (s : State) (c : PCore) (w : BitVec 26) : State :=
  s.toReg c 0x04 w none [fA w] (fD w) fun q => q.sr (fA w) ||| BitVec.ofNat 64 (fImm w)

/-- The shift of SHI: IMM[9:8] its kind, IMM[5:0] its amount. -/
def shiOp (imm : Nat) (a : W64) : W64 :=
  let n := fieldN imm 5 0
  match fieldN imm 9 8 with
  | 0 => a <<< n
  | 1 => a >>> n
  | _ => a.sshiftRight n

def State.shi (s : State) (c : PCore) (w : BitVec 26) : State :=
  s.toReg c 0x05 w (illegalUnless (fld w 9 8 ≤ 2 && fld w 15 10 == 0 && fld w 7 6 == 0)) [fA w] (fD w)
    fun q => shiOp (fImm w) (q.sr (fA w))

def State.movi (s : State) (c : PCore) (w : BitVec 26) : State :=
  s.toReg c 0x06 w (illegalUnless (fA w == 0)) [] (fD w) fun _ => sext16 (fImm w)

/-- Halfword h of a register replaced. -/
def movkOp (a : W64) (h imm : Nat) : W64 :=
  (a &&& ~~~ (0xFFFF#64 <<< (16 * h))) ||| (BitVec.ofNat 64 imm <<< (16 * h))

def State.movk (s : State) (c : PCore) (w : BitVec 26) : State :=
  s.toReg c 0x07 w (illegalUnless (fld w 20 18 == 0)) [] (fD w) fun q => movkOp (q.sr (fD w)) (fld w 17 16) (fImm w)

/-! ### Branches and jumps -/

/-- A jump to a target: PC_RANGE outside the kernel section (R219), else the body and the target. -/
def State.jump (s : State) (c : PCore) (x : Inst) (target : Int) (body : State → State) : State :=
  if target < 0 || target ≥ (x.klen / 4 : Nat) then s.fault c x.slot 0x4031
  else (body s).goOn c target.toNat

/-- PC + sext(OFF). -/
def relTarget (q : Seq) (off : Nat) : Int := (q.pc.toNat : Int) + signedN 16 off

/-- A conditional branch: format B, sa in [25:21] and sb in [20:16]. -/
def State.branch (s : State) (c : PCore) (op : BitVec 6) (w : BitVec 26) (cond : W64 → W64 → Bool) : State :=
  s.issue c op w fun x s => s.scalar c x none [fD w, fA w] fun q =>
    if cond (q.sr (fD w)) (q.sr (fA w)) then s.jump c x (relTarget q (fImm w)) id else s.goNext c

def State.beq (s : State) (c : PCore) (w : BitVec 26) : State := s.branch c 0x08 w fun a b => a == b
def State.bne (s : State) (c : PCore) (w : BitVec 26) : State := s.branch c 0x09 w fun a b => a != b
def State.blt (s : State) (c : PCore) (w : BitVec 26) : State := s.branch c 0x0A w fun a b => a.slt b
def State.bge (s : State) (c : PCore) (w : BitVec 26) : State := s.branch c 0x0B w fun a b => !a.slt b
def State.bltu (s : State) (c : PCore) (w : BitVec 26) : State := s.branch c 0x0C w fun a b => a.ult b
def State.bgeu (s : State) (c : PCore) (w : BitVec 26) : State := s.branch c 0x0D w fun a b => !a.ult b

def State.jal (s : State) (c : PCore) (w : BitVec 26) : State :=
  s.issue c 0x0E w fun x s => s.scalar c x (illegalUnless (fA w == 0)) [fD w] fun q =>
    s.jump c x (relTarget q (fImm w)) fun s => s.modSeq c fun q' => q'.setS (fD w) (BitVec.ofNat 64 (q.pc.toNat + 1))

def State.jr (s : State) (c : PCore) (w : BitVec 26) : State :=
  s.issue c 0x0F w fun x s => s.scalar c x (illegalUnless (fImm w == 0)) [fD w, fA w] fun q =>
    s.jump c x ((q.sr (fA w)).toNat : Nat) fun s => s.modSeq c fun q' => q'.setS (fD w) (BitVec.ofNat 64 (q.pc.toNat + 1))

/-! ### Scalar memory access -/

/-- The range that n bytes of a handle from a byte offset are, in both copies where the handle has two (R118). -/
def State.rangesOf (s : State) (c : PCore) (i : Slot) (h off n : Nat) : List Range :=
  match (s.core c).handle i h with
  | none => []
  | some e =>
    let k := s.ctx i
    let a := k.copyBase e false + off
    let b := k.copyBase e true + off
    if n = 0 then []
    else if e.cls = 1 then [⟨c, e.mem, a, a + n⟩, ⟨c, e.mem, b, b + n⟩]
    else [⟨c, e.mem, a, a + n⟩]

/-- A write to a range of the core is in flight: its command is not complete, or its bytes wait in the release buffer. -/
def State.busyWrite (s : State) (c : PCore) (rs : List Range) : Bool :=
  (s.core c).cmds.any (fun d => meetsAny d.writes rs) ||
  ((rs.any fun r => r.mem ≥ 5) && (s.core c).relBuf.any fun r => match r.kind with | .write .. => true | _ => false)

/-- A read of a range of the core is in flight. -/
def State.busyRead (s : State) (c : PCore) (rs : List Range) : Bool := (s.core c).cmds.any fun d => meetsAny d.reads rs

/-- SLD and SST take the byte offset OFFSET × 64 + IMM of aA (R220). -/
def scalarOff (q : Seq) (w : BitVec 26) : Nat := arOff (q.ar (fld w 20 17)) * 64 + fld w 16 0

/-- 64 bytes with 8 of them, from offset k on, replaced. -/
def patch8 (old : List Byte) (k : Nat) (v : W64) : List Byte := old.take k ++ leBytes 8 v.toNat ++ old.drop (k + 8)

/-- SLD; the declared ring inboxes are closed to it and to SST (R246). -/
def State.sld (s : State) (c : PCore) (w : BitVec 26) : State :=
  s.issue c 0x10 w fun x s => s.scalar c x (if fld w 16 0 % 8 = 0 then none else some 0x4037) [fD w] fun q =>
    let h := arHandle (q.ar (fld w 20 17))
    let off := scalarOff q w
    let unit := off / 64 * 64
    if (s.core c).ringNamed x.slot h then s.fault c x.slot 0x4033 else
    match (s.core c).translate x.slot h unit 64 false with
    | .error code => s.fault c x.slot code
    | .ok e =>
      if s.busyWrite c (s.rangesOf c x.slot h unit 64) then s
      else if !(s.core c).readOk c e.mem (slotsOf e [(unit, 64)]) then s.fault c x.slot 0x4001
      else
        let bs := s.readH c x.slot e unit 64 true
        let s := s.countAcc x.slot e.mem false ((s.ctx x.slot).copyBase e false + unit) 64
        (s.modSeq c fun q' => q'.setS (fD w) (le64 bs (off % 64))).goNext c

/-- Whether a write through a handle ends pre-emptibility (R217). -/
def HEnt.endsPre (e : HEnt) : Bool := e.cls == 1 || e.mem ≥ 5

/-- SST: off the block its write takes the next sequence number and leaves at once, so it waits for every earlier
result of the core to leave (R133). -/
def State.sst (s : State) (c : PCore) (w : BitVec 26) : State :=
  s.issue c 0x11 w fun x s => s.scalar c x (if fld w 16 0 % 8 = 0 then none else some 0x4037) [fD w] fun q =>
    let h := arHandle (q.ar (fld w 20 17))
    let off := scalarOff q w
    let unit := off / 64 * 64
    if (s.core c).ringNamed x.slot h then s.fault c x.slot 0x4033 else
    match (s.core c).translate x.slot h unit 64 true with
    | .error code => s.fault c x.slot code
    | .ok e =>
      let rs := s.rangesOf c x.slot h unit 64
      if s.busyWrite c rs || s.busyRead c rs || (e.mem ≥ 5 && (s.core c).nextSeq != (s.core c).nextRel) then s
      else if !(s.core c).writeOk c e.mem (slotsOf e [(unit, 64)]) then s.fault c x.slot 0x4002
      else
        let s := if e.endsPre then s.endPre c else s
        let bs := patch8 (s.readH c x.slot e unit 64 true) (off % 64) (q.sr (fD w))
        let num := q.cmdNum
        let s := (s.writeH c x.slot e unit bs (.slice x.slot c num)).countAcc x.slot e.mem true ((s.ctx x.slot).writeAddr c e unit) 64
        let s := s.modCore c fun k =>
          let k := k.fill c e.mem (slotsOf e [(unit, 64)]) true 0
          if e.mem ≥ 5 then { k with nextSeq := k.nextSeq + 1, nextRel := k.nextRel + 1 } else k
        (s.modSeq c fun q' => { q' with cmdNum := num + 1 }).goNext c

/-! ### Special registers, predicates, address registers -/

/-- The special register IMM of Table 10.5. -/
def State.special (s : State) (c : PCore) (x : Inst) (q : Seq) (imm layer : Nat) : W64 :=
  match imm with
  | 0 => q.arith.zeroExtend 64
  | 1 => q.arith.zeroExtend 64
  | 2 => BitVec.ofNat 64 (((s.ctx x.slot).fmt.find layer).getD {}).fmt
  | 3 => (s.ctx x.slot).step
  | 4 => BitVec.ofNat 64 s.clk.time
  | 5 => s.bel.count
  | 6 => BitVec.ofNat 64 ((s.icoreOf c).getD 0)
  | 7 => BitVec.ofNat 64 c.val
  | 8 => q.preds.zeroExtend 64
  | _ => q.posted.zeroExtend 64

/-- LAYERS of the image of a context. -/
def Ctx.layers (c : Ctx) : Nat := match c.image with | some im => im.layers | none => 0

def State.gets (s : State) (c : PCore) (w : BitVec 26) : State :=
  s.issue c 0x12 w fun x s => s.scalar c x (illegalUnless (fImm w ≤ 9 && (fImm w == 2 || fA w == 0))) [fD w, fA w] fun q =>
    let layer := (q.sr (fA w)).toNat % 256
    if fImm w = 2 && layer ≥ (s.ctx x.slot).layers then s.fault c x.slot 0x4032 else
    let v := s.special c x q (fImm w) layer
    (s.modSeq c fun q' =>
      let q' := q'.setS (fD w) v
      if fImm w = 1 then { q' with arith := 0 } else q').goNext c

def State.setp (s : State) (c : PCore) (w : BitVec 26) : State :=
  s.issue c 0x13 w fun x s =>
    s.scalar c x (if fD w ≠ 0 || fld w 15 4 ≠ 0 then some 0x4030 else if fImm w ≥ x.npred then some 0x4035 else none)
      [fA w] fun q => (s.modSeq c fun q' => { q' with preds := setBit q'.preds (fImm w) (q.sr (fA w) != 0) }).goNext c

def State.aset (s : State) (c : PCore) (w : BitVec 26) : State :=
  s.issue c 0x14 w fun x s => s.scalar c x (illegalUnless (fAA w == 0 && fld w 12 0 == 0)) [fSB w] fun q =>
    (s.modSeq c fun q' => q'.setA (fAD w) (q.sr (fSB w))).goNext c

def State.aget (s : State) (c : PCore) (w : BitVec 26) : State :=
  s.toReg c 0x15 w (illegalUnless (fld w 20 20 == 0 && fImm w == 0)) [] (fD w) fun q => q.ar (fld w 19 16)

/-- aA with its OFFSET advanced by a signed 13-bit count, modulo 2^32. -/
def aaddOp (a : W64) (imm : Nat) : W64 :=
  arMake (arHandle a) (arLen a) (wrapN 32 ((arOff a : Int) + signedN 13 imm))

def State.aadd (s : State) (c : PCore) (w : BitVec 26) : State :=
  s.issue c 0x16 w fun x s => s.scalar c x (illegalUnless (fSB w == 0)) [] fun q =>
    (s.modSeq c fun q' => q'.setA (fAD w) (aaddOp (q.ar (fAA w)) (fld w 12 0))).goNext c

/-- aA with its LEN replaced. -/
def alenOp (a : W64) (imm : Nat) : W64 := arMake (arHandle a) imm (arOff a)

def State.alen (s : State) (c : PCore) (w : BitVec 26) : State :=
  s.issue c 0x17 w fun x s => s.scalar c x (illegalUnless (fSB w == 0)) [] fun q =>
    (s.modSeq c fun q' => q'.setA (fAD w) (alenOp (q.ar (fAA w)) (fld w 12 0))).goNext c

/-! ### BRK (R233) -/

/-- BRK whose code matches an armed set is a hit: the sequencer issues nothing more and the core drains (R351). -/
def State.brkOp (s : State) (c : PCore) (w : BitVec 26) : State :=
  s.issue c 0x3E w fun x s => s.scalar c x (illegalUnless (fD w == 0 && fA w == 0)) [] fun _ =>
    let code := BitVec.ofNat 16 (fImm w)
    let hit := match (s.ctx x.slot).brk with
      | some b => b.code == 0xFFFF || b.code == code
      | none => false
    let s := s.goNext c
    if hit then s.modSeq c fun q => { q with brkDrain := true, brkCode := some code } else s

/-! ### The commands -/

def execAlu (core : PCore) (w : BitVec 26) (s : State) : Host.Outcome State Fault Refusal := s.run fun s => s.alu core w
def execAddi (core : PCore) (w : BitVec 26) (s : State) : Host.Outcome State Fault Refusal := s.run fun s => s.addi core w
def execAndi (core : PCore) (w : BitVec 26) (s : State) : Host.Outcome State Fault Refusal := s.run fun s => s.andi core w
def execOri (core : PCore) (w : BitVec 26) (s : State) : Host.Outcome State Fault Refusal := s.run fun s => s.ori core w
def execShi (core : PCore) (w : BitVec 26) (s : State) : Host.Outcome State Fault Refusal := s.run fun s => s.shi core w
def execMovi (core : PCore) (w : BitVec 26) (s : State) : Host.Outcome State Fault Refusal := s.run fun s => s.movi core w
def execMovk (core : PCore) (w : BitVec 26) (s : State) : Host.Outcome State Fault Refusal := s.run fun s => s.movk core w
def execBeq (core : PCore) (w : BitVec 26) (s : State) : Host.Outcome State Fault Refusal := s.run fun s => s.beq core w
def execBne (core : PCore) (w : BitVec 26) (s : State) : Host.Outcome State Fault Refusal := s.run fun s => s.bne core w
def execBlt (core : PCore) (w : BitVec 26) (s : State) : Host.Outcome State Fault Refusal := s.run fun s => s.blt core w
def execBge (core : PCore) (w : BitVec 26) (s : State) : Host.Outcome State Fault Refusal := s.run fun s => s.bge core w
def execBltu (core : PCore) (w : BitVec 26) (s : State) : Host.Outcome State Fault Refusal := s.run fun s => s.bltu core w
def execBgeu (core : PCore) (w : BitVec 26) (s : State) : Host.Outcome State Fault Refusal := s.run fun s => s.bgeu core w
def execJal (core : PCore) (w : BitVec 26) (s : State) : Host.Outcome State Fault Refusal := s.run fun s => s.jal core w
def execJr (core : PCore) (w : BitVec 26) (s : State) : Host.Outcome State Fault Refusal := s.run fun s => s.jr core w
def execSld (core : PCore) (w : BitVec 26) (s : State) : Host.Outcome State Fault Refusal := s.run fun s => s.sld core w
def execSst (core : PCore) (w : BitVec 26) (s : State) : Host.Outcome State Fault Refusal := s.run fun s => s.sst core w
def execGets (core : PCore) (w : BitVec 26) (s : State) : Host.Outcome State Fault Refusal := s.run fun s => s.gets core w
def execSetp (core : PCore) (w : BitVec 26) (s : State) : Host.Outcome State Fault Refusal := s.run fun s => s.setp core w
def execAset (core : PCore) (w : BitVec 26) (s : State) : Host.Outcome State Fault Refusal := s.run fun s => s.aset core w
def execAget (core : PCore) (w : BitVec 26) (s : State) : Host.Outcome State Fault Refusal := s.run fun s => s.aget core w
def execAadd (core : PCore) (w : BitVec 26) (s : State) : Host.Outcome State Fault Refusal := s.run fun s => s.aadd core w
def execAlen (core : PCore) (w : BitVec 26) (s : State) : Host.Outcome State Fault Refusal := s.run fun s => s.alen core w
def execBrk (core : PCore) (w : BitVec 26) (s : State) : Host.Outcome State Fault Refusal := s.run fun s => s.brkOp core w

end Sys2Proof.Machine
end

