-- ==== Sys2Proof/Machine/Arith.lean ====
section
/-! DEFINITION. Sys2Proof/Machine/Arith.lean: numbers of the engine, vector and table units: format codes (R138 to R143),
exact values, rounding and write-out (R152, R153), binary32 operations (R226), and the generator of draws (R321). -/

namespace Sys2Proof.Machine

/-! ### Exact values -/

/-- A value that a code stands for: NaN, an infinity, or (-1)^neg × mag × 2^exp. -/
inductive Num where
  | nan
  | inf (neg : Bool)
  | fin (neg : Bool) (mag : Nat) (exp : Int)
deriving DecidableEq, Repr

/-- +0. -/
def Num.zero : Num := .fin false 0 0
def Num.isNan : Num → Bool | .nan => true | _ => false
def Num.isInf : Num → Bool | .inf _ => true | _ => false
def Num.isFin : Num → Bool | .fin .. => true | _ => false
/-- A zero of either sign. -/
def Num.isZero : Num → Bool | .fin _ 0 _ => true | _ => false
def Num.sign : Num → Bool | .nan => false | .inf n => n | .fin n _ _ => n
def Num.neg : Num → Num | .nan => .nan | .inf n => .inf (!n) | .fin n m e => .fin (!n) m e
def Num.abs : Num → Num | .nan => .nan | .inf _ => .inf false | .fin _ m e => .fin false m e
/-- A value scaled by 2^k. -/
def Num.scale (k : Int) : Num → Num | .fin n m e => .fin n m (e + k) | x => x
/-- An integer. -/
def Num.ofInt (v : Int) (e : Int := 0) : Num := .fin (v < 0) v.natAbs e

/-- floor(log2 |v|) of a finite value that is not zero. -/
def lead (m : Nat) (e : Int) : Int := (Nat.log2 m : Int) + e

/-- mag × 2^exp as an integer multiple of 2^lsb, for lsb ≤ exp. -/
def alignTo (m : Nat) (e lsb : Int) : Nat := m <<< (e - lsb).toNat

/-- The signed integer (-1)^neg × mag × 2^(exp - lsb), for lsb ≤ exp. -/
def Num.atLsb (lsb : Int) : Num → Int
  | .fin n m e => if n then - (alignTo m e lsb : Int) else (alignTo m e lsb : Int)
  | _ => 0

/-- The exponent of a finite value's unit. -/
def Num.expOf : Num → Int | .fin _ _ e => e | _ => 0

/-! ### Formats (Tables 7.1, 7.2) -/

/-- Bits per element of a format code. -/
def fmtBits : Nat → Nat
  | 0 => 8
  | 1 => 8
  | 2 => 6
  | 3 => 4
  | 4 => 8
  | 5 => 4
  | 6 => 16
  | 7 => 16
  | _ => 32

/-- we, p and bias of a floating-point format code; none for an integer format. -/
def fmtFloat : Nat → Option (Nat × Nat × Int)
  | 0 => some (4, 3, 7)
  | 1 => some (5, 2, 15)
  | 2 => some (3, 2, 3)
  | 3 => some (2, 1, 1)
  | 6 => some (8, 7, 127)
  | 7 => some (5, 10, 15)
  | 8 => some (8, 23, 127)
  | _ => none

/-- Whether a format has infinities: FP8-B, BF16, FP16, FP32. -/
def fmtHasInf (f : Nat) : Bool := f == 1 || f == 6 || f == 7 || f == 8

/-- The canonical NaN code of a format (R141); zero where it has none. -/
def fmtNan : Nat → Nat
  | 0 => 0x7F
  | 1 => 0x7E
  | 6 => 0x7FC0
  | 7 => 0x7E00
  | 8 => 0x7FC00000
  | _ => 0

/-- The magnitude bits of the largest finite code of a floating-point format (Table 7.2). -/
def fmtMaxCode : Nat → Nat
  | 0 => 0x7E
  | 1 => 0x7B
  | 2 => 0x1F
  | 3 => 0x7
  | 6 => 0x7F7F
  | 7 => 0x7BFF
  | _ => 0x7F7FFFFF

/-- The value of a code (R140 to R142). -/
def decodeNum (f : Nat) (code : Nat) : Num :=
  match fmtFloat f with
  | none => Num.ofInt (signedN (fmtBits f) code)
  | some (we, p, bias) =>
    let n := fieldN code (we + p) (we + p) == 1
    let x := fieldN code (we + p - 1) p
    let m := code % 2 ^ p
    if f = 0 && x = 15 && m = 7 then .nan
    else if fmtHasInf f && x = 2 ^ we - 1 then (if m = 0 then .inf n else .nan)
    else if x = 0 then .fin n m (1 - bias - p)
    else .fin n (2 ^ p + m) ((x : Int) - bias - p)

/-! ### Rounding (R152) -/

/-- mag × 2^exp rounded to an integer multiple of 2^lsb: the multiple. Mode as Table 7.5; r is the draw of SR. -/
def roundMag (mode : Nat) (neg : Bool) (r : Nat) (m : Nat) (e lsb : Int) : Nat :=
  if lsb ≤ e then alignTo m e lsb
  else
    let sh := (lsb - e).toNat
    let q := m >>> sh
    let rest := m % 2 ^ sh
    if rest = 0 then q else
    match mode with
    | 0 => if 2 * rest > 2 ^ sh || (2 * rest == 2 ^ sh && q % 2 == 1) then q + 1 else q
    | 1 => q
    | 2 => if neg then q else q + 1
    | 3 => if neg then q + 1 else q
    | _ => if rest * 2 ^ 32 / 2 ^ sh > r then q + 1 else q

/-- The unit of the last place of a floating-point format at a finite value that is not zero. -/
def floatLsb (p : Nat) (bias : Int) (m : Nat) (e : Int) : Int := max (lead m e) (1 - bias) - p

/-- The magnitude code of n × 2^lsb, which the format holds (exponent field, mantissa). -/
def encodeMag (p : Nat) (bias : Int) (n : Nat) (lsb : Int) : Nat :=
  if n < 2 ^ p then n
  else if n = 2 ^ (p + 1) then ((lsb + 1 + p + bias).toNat) <<< p
  else ((lsb + p + bias).toNat) <<< p ||| (n - 2 ^ p)

/-- n × 2^a > m × 2^b. -/
def magGt (n : Nat) (a : Int) (m : Nat) (b : Int) : Bool :=
  if a ≤ b then n > alignTo m b a else alignTo n a b > m

/-- What a write-out gives: the code, and whether OVF and NAN_LOST are set. -/
structure Written where
  code : Nat := 0
  ovf : Bool := false
  nanLost : Bool := false
deriving DecidableEq, Repr

/-- The range of an integer format. -/
def intMax (f : Nat) (neg : Bool) : Nat := if neg then 2 ^ (fmtBits f - 1) else 2 ^ (fmtBits f - 1) - 1

/-- A signed integer in the bits of an integer format. -/
def intCode (f : Nat) (neg : Bool) (n : Nat) : Nat := wrapN (fmtBits f) (if neg then -(n : Int) else n)

/-- Whether an overflow goes to infinity (Table 7.6, SAT = 0): RNE and SR, and the rounding toward the sign. -/
def ovfToInf (mode : Nat) (neg : Bool) : Bool := mode == 0 || mode ≥ 4 || (mode == 2 && !neg) || (mode == 3 && neg)

/-- The write-out of a value into a format (R152, R153, Table 7.6). -/
def writeOut (f mode : Nat) (sat : Bool) (r : Nat) (v : Num) : Written :=
  match fmtFloat f with
  | none =>
    match v with
    | .nan => { nanLost := true }
    | .inf n => { code := intCode f n (intMax f n) }
    | .fin n m e =>
      let q := roundMag mode n r m e 0
      if q > intMax f n then { code := intCode f n (intMax f n), ovf := true } else { code := intCode f n q }
  | some (we, p, bias) =>
    let s (n : Bool) (c : Nat) : Nat := if n then 2 ^ (we + p) ||| c else c
    let inf (n : Bool) : Nat :=
      if fmtHasInf f then s n ((2 ^ we - 1) <<< p) else if f = 0 then 0x7F else s n (fmtMaxCode f)
    match v with
    | .nan => if fmtNan f = 0 then { nanLost := true } else { code := fmtNan f }
    | .inf n => if sat then { code := s n (fmtMaxCode f) } else { code := inf n }
    | .fin _ 0 _ => {}
    | .fin n m e =>
      let lsb := floatLsb p bias m e
      let q := roundMag mode n r m e lsb
      let big := decodeNum f (fmtMaxCode f)
      if q = 0 then {}
      else if magGt q lsb (big.atLsb big.expOf).natAbs big.expOf then
        if sat then { code := s n (fmtMaxCode f), ovf := true }
        else if fmtHasInf f && !ovfToInf mode n then { code := s n (fmtMaxCode f), ovf := true }
        else { code := inf n, ovf := true }
      else { code := s n (encodeMag p bias q lsb) }

/-! ### binary32 (R226): every result rounded once under RNE, IEEE 754 infinities and signed zeros -/

/-- A finite exact value rounded to binary32; a zero result keeps the sign given. -/
def rne32 : Num → Num
  | .fin n m e =>
    if m = 0 then .fin n 0 0 else
    let lsb := floatLsb 23 127 m e
    let q := roundMag 0 n 0 m e lsb
    if q = 0 then .fin n 0 0
    else if magGt q lsb (2 ^ 24 - 1) 104 then .inf n
    else .fin n q lsb
  | x => x

/-- The exact sum of two finite values; an exact zero sum of unequal signs is +0. -/
def addExact (n₁ : Bool) (m₁ : Nat) (e₁ : Int) (n₂ : Bool) (m₂ : Nat) (e₂ : Int) : Num :=
  if m₁ = 0 && m₂ = 0 then .fin (n₁ && n₂) 0 0 else
  let l := min e₁ e₂
  let v := (Num.fin n₁ m₁ e₁).atLsb l + (Num.fin n₂ m₂ e₂).atLsb l
  if v = 0 then .fin false 0 0 else Num.ofInt v l

/-- The sum before rounding. -/
def Num.add : Num → Num → Num
  | .nan, _ => .nan
  | _, .nan => .nan
  | .inf a, .inf b => if a = b then .inf a else .nan
  | .inf a, _ => .inf a
  | _, .inf b => .inf b
  | .fin a m e, .fin b k f => addExact a m e b k f

/-- The product before rounding. -/
def Num.mul : Num → Num → Num
  | .nan, _ => .nan
  | _, .nan => .nan
  | .inf a, .inf b => .inf (a != b)
  | .inf a, .fin b m _ => if m = 0 then .nan else .inf (a != b)
  | .fin a m _, .inf b => if m = 0 then .nan else .inf (a != b)
  | .fin a m e, .fin b k f => .fin (a != b) (m * k) (e + f)

def fadd (a b : Num) : Num := rne32 (a.add b)
def fsub (a b : Num) : Num := rne32 (a.add b.neg)
def fmul (a b : Num) : Num := rne32 (a.mul b)
/-- fma32: one rounding of a × b + c. -/
def fma32 (a b c : Num) : Num := rne32 ((a.mul b).add c)

/-- The strict order of values that are not NaN, −0 below +0. -/
def Num.below : Num → Num → Bool
  | .inf a, .inf b => a && !b
  | .inf a, .fin .. => a
  | .fin .., .inf b => !b
  | .fin a m e, .fin b k f =>
    if m = 0 && k = 0 then a && !b
    else
      let l := min e f
      (Num.fin a m e).atLsb l < (Num.fin b k f).atLsb l
  | _, _ => false

/-- The arithmetic order: zeros of either sign are equal. -/
def Num.lt (a b : Num) : Bool := if a.isZero && b.isZero then false else a.below b

/-- IEEE maximum, −0 below +0; NaN if either input is. -/
def fmax (a b : Num) : Num := if a.isNan || b.isNan then .nan else if a.below b then b else a
/-- IEEE minimum. -/
def fmin (a b : Num) : Num := if a.isNan || b.isNan then .nan else if b.below a then b else a

/-- A quotient n ÷ d of magnitudes × 2^e to at least 64 bits, its lowest bit set where a remainder is left. -/
def divSticky (n d : Nat) (e : Int) : Nat × Int :=
  let sh := 64 + Nat.log2 d
  let a := n <<< sh
  let q := a / d
  (2 * q + (if a % d = 0 then 0 else 1), e - sh - 1)

/-- 1 ÷ a, correctly rounded. -/
def frecip : Num → Num
  | .nan => .nan
  | .inf n => .fin n 0 0
  | .fin n m e => if m = 0 then .inf n else
    let q := divSticky 1 m (-e)
    rne32 (.fin n q.1 q.2)

/-- floor(√n), by fuel bisection on the bits. -/
def isqrt (n : Nat) : Nat :=
  (List.range (Nat.log2 n / 2 + 1)).reverse.foldl (fun r i => if (r + 2 ^ i) * (r + 2 ^ i) ≤ n then r + 2 ^ i else r) 0

/-- 1 ÷ √t, correctly rounded: √(2^(2k) ÷ m) for an even exponent. -/
def frsqrt : Num → Num
  | .nan => .nan
  | .inf n => if n then .nan else .fin false 0 0
  | .fin n m e =>
    if m = 0 then .inf n else if n then .nan else
    let m' := if e % 2 = 0 then m else 2 * m
    let e' := if e % 2 = 0 then e else e - 1
    let k := 64 + Nat.log2 m'
    let a := 2 ^ (2 * k) / m'
    let r := isqrt a
    let exact := r * r * m' == 2 ^ (2 * k)
    rne32 (.fin false (2 * r + (if exact then 0 else 1)) (-(e' / 2) - k - 1))

/-- An input of a vector or table command as binary32 (R226): exact but for an INT32 beyond 2^24. -/
def toF32 (f code : Nat) : Num := if f = 9 then rne32 (decodeNum 9 code) else decodeNum f code

/-- The binary32 value of 32 bits. -/
def f32 (w : W32) : Num := decodeNum 8 w.toNat

/-- The binary32 code of a value that binary32 holds, sign of zero kept. -/
def f32Code : Num → Nat
  | .nan => 0x7FC00000
  | .inf n => if n then 0xFF800000 else 0x7F800000
  | .fin n m e =>
    let s := if n then 2 ^ 31 else 0
    if m = 0 then s else
    let lsb := floatLsb 23 127 m e
    s ||| encodeMag 23 127 (roundMag 0 n 0 m e lsb) lsb

/-! ### Packing (R143) -/

/-- Bytes of n packed elements of w bits. -/
def packedLen (w n : Nat) : Nat := ceilDiv (w * n) 8

/-- Bits [w × i + w − 1 : w × i] of a little-endian byte string: element i. FP6 groups of four fill three bytes (R143). -/
def elemAt (w : Nat) (bs : List Byte) (i : Nat) : Nat :=
  let lo := w * i
  (leNat ((bs.drop (lo / 8)).take (w / 8 + 2)) >>> (lo % 8)) % 2 ^ w

/-- The first n elements. -/
def unpack (w : Nat) (bs : List Byte) (n : Nat) : List Nat := (List.range n).map (elemAt w bs)

/-- The value of codes laid one after another, element 0 lowest. -/
def packNat (w : Nat) : List Nat → Nat
  | [] => 0
  | c :: t => c % 2 ^ w + 2 ^ w * packNat w t

/-- Codes packed into bytes. -/
def pack (w : Nat) (cs : List Nat) : List Byte := leBytes (packedLen w cs.length) (packNat w cs)

/-- A byte string padded with zeros to whole 64-byte units. -/
def padUnits (bs : List Byte) : List Byte := bs ++ List.replicate (roundUp bs.length 64 - bs.length) 0

/-! ### The generator (R321) -/

/-- The amounts of Table 14.4 (log entry 20: the example of Table 14.5 was made with 5 in place of 29). -/
def rotAmounts : Nat → Nat × Nat
  | 0 => (13, 15)
  | 1 => (25, 7)
  | 2 => (9, 23)
  | 3 => (29, 17)
  | _ => (11, 21)

/-- The state of a draw: x0 to x3. -/
abbrev DrawSt := W32 × W32 × W32 × W32

/-- inject(j) with the key words k. -/
def drawInject (k : Nat → W32) (j : Nat) : DrawSt → DrawSt
  | (x0, x1, x2, x3) => (x0 + k (j % 4), x1 + k ((j + 1) % 4), x2 + k ((j + 2) % 4), x3 + k ((j + 3) % 4) + BitVec.ofNat 32 j)

/-- One round. -/
def drawRound (r : Nat) : DrawSt → DrawSt
  | (x0, x1, x2, x3) =>
    let (a, b) := rotAmounts (r % 5)
    let y0 := x0 + x1
    let y1 := x1.rotateLeft a ^^^ y0
    let y2 := x2 + x3
    let y3 := x3.rotateLeft b ^^^ y2
    (y0, y3, y2, y1)

/-- draw(SEED, CONTEXT_ID, STEP, TID, IDX). -/
def draw (seed : W64) (ctx : W32) (step : W64) (tid idx : W32) : BitVec 128 :=
  let k0 := seed.extractLsb' 0 32
  let k1 := seed.extractLsb' 32 32
  let k3 := 0x9E3779B9 ^^^ k0 ^^^ k1 ^^^ ctx
  let k (i : Nat) : W32 := match i with | 0 => k0 | 1 => k1 | 2 => ctx | _ => k3
  let x := drawInject k 0 (idx, tid, step.extractLsb' 0 32, step.extractLsb' 32 32)
  let x := (List.range 5).foldl (fun x r => drawRound r x) x
  let x := drawInject k 1 x
  let x := (List.range 5).foldl (fun x r => drawRound (r + 5) x) x
  match drawInject k 2 x with
  | (x0, x1, x2, x3) => x3 ++ x2 ++ x1 ++ x0

/-- The low 32 bits of a draw, which every command uses. -/
def drawLow (seed : W64) (ctx : W32) (step : W64) (tid idx : Nat) : Nat :=
  (draw seed ctx step (BitVec.ofNat 32 tid) (BitVec.ofNat 32 idx)).toNat % 2 ^ 32

end Sys2Proof.Machine
end

