-- ==== Sys2Proof/Machine/Engine.lean ====
section
/-! DEFINITION. Sys2Proof/Machine/Engine.lean: the arithmetic of the matrix engine on plain values: partial-sum entries
(R145, R146), contributions (R148 to R151), block-scaled write-out (R155), and weight tiles (R144, R157, R158). -/

namespace Sys2Proof.Machine

/-! ### Partial-sum entries -/

/-- A partial-sum entry (Table 7.3); special 0 finite, 1 +∞, 2 −∞, 3 NaN. -/
structure PEnt where
  value : Int := 0
  exp : Int := 0
  win : Bool := false
  special : Nat := 0
deriving DecidableEq, Repr

/-- An entry read from its 16 bytes. -/
def PEnt.ofBytes (bs : List Byte) : PEnt :=
  let v := leNat (bs.take 16)
  { value := signedN 96 v, exp := signedN 13 (fieldN v 108 96), win := fieldN v 109 109 == 1, special := fieldN v 111 110 }

/-- The 16 bytes of an entry. -/
def PEnt.bytes (p : PEnt) : List Byte :=
  leBytes 16 (wrapN 96 p.value ||| wrapN 13 p.exp <<< 96 ||| b2n p.win <<< 109 ||| p.special <<< 110)

/-- The value of an entry. -/
def PEnt.num (p : PEnt) : Num :=
  match p.special with
  | 0 => Num.ofInt p.value p.exp
  | 1 => .inf false
  | 2 => .inf true
  | _ => .nan

/-- The combination of a finite contribution c × 2^e (R146); none is ACC_RANGE. -/
def PEnt.combine (p : PEnt) (c e : Int) (w : Bool) : Option PEnt :=
  if p.special ≠ 0 then some p else
  let p := { p with win := p.win || w }
  if c = 0 then some p
  else if p.value = 0 then some { p with value := c, exp := e }
  else
    let E := min p.exp e
    let s := p.value * (2 ^ (p.exp - E).toNat : Nat) + c * (2 ^ (e - E).toNat : Nat)
    if s = 0 then some { p with value := 0, exp := 0 } else
    let put (s E : Int) : Option PEnt := if E < -4096 || E > 4095 then none else some { p with value := s, exp := E }
    if p.win then
      let L := (Nat.log2 s.natAbs : Int) + E
      if L - 94 > E then
        let m := s.natAbs >>> (L - 94 - E).toNat
        put (if s < 0 then -(m : Int) else m) (L - 94)
      else put s E
    else if s.natAbs ≥ 2 ^ 95 then none
    else put s E

/-- The combination of a special contribution (R151): the entry, and whether a NaN was formed of two infinities. -/
def PEnt.combineSpecial (p : PEnt) (sp : Nat) (w : Bool) : PEnt × Bool :=
  let formed := (p.special == 1 && sp == 2) || (p.special == 2 && sp == 1)
  let k := if formed then 3 else if p.special = 3 then 3 else if p.special = 0 then sp else if sp = 3 then 3 else p.special
  ({ value := 0, exp := 0, win := p.win || w, special := k }, formed)

/-! ### Contributions -/

/-- What one group or block gives to an entry. -/
inductive Contrib where
  | none
  | fin (c e : Int)
  | special (k : Nat)
deriving DecidableEq, Repr

/-- The special of the products of a group (R151): none, or its kind, and whether a product or the group formed a NaN of
inputs that were none. -/
def groupSpecial (ps : List (Num × Num)) : Option Nat × Bool :=
  let prods := ps.map fun x => x.1.mul x.2
  let formedProd := ps.any fun x => !x.1.isNan && !x.2.isNan && (x.1.mul x.2).isNan
  let pos := prods.any fun x => x == .inf false
  let neg := prods.any fun x => x == .inf true
  let nan := prods.any Num.isNan
  if nan then (some 3, formedProd)
  else if pos && neg then (some 3, true)
  else if pos then (some 1, false)
  else if neg then (some 2, false)
  else (none, false)

/-- The least exponent of a narrow format (Table 7.4). -/
def fmtLf : Nat → Int
  | 0 => -9
  | 1 => -16
  | 2 => -4
  | 3 => -1
  | _ => 0

/-- The exact sum of a narrow group (R148) in units of 2^e, e = La + Lw; scales are added by the caller. -/
def narrowSum (fa fb : Nat) (ps : List (Num × Num)) : Int :=
  let e := fmtLf fa + fmtLf fb
  ps.foldl (fun s x => s + (x.1.mul x.2).atLsb e) 0

/-- The windowed sum of a 16-bit group (R150): none where every product is zero. -/
def windowSum (ps : List (Num × Num)) : Option (Int × Int) :=
  let prods := (ps.map fun x => x.1.mul x.2).filter fun x => !x.isZero
  match prods with
  | [] => none
  | x :: t =>
    let top (v : Num) : Int := match v with | .fin _ m e => lead m e | _ => 0
    let m := t.foldl (fun a v => max a (top v)) (top x)
    let trunc (v : Num) : Int := match v with
      | .fin n g e => let q : Int := roundMag 1 n 0 g e (m - 87); if n then -q else q
      | _ => 0
    some ((prods.map trunc).foldl (· + ·) 0, m - 87)

/-- One row of A, or one column of B: its elements and, where block-scaled, one scale byte for each 32 of k. -/
structure Vec where
  els : List Num := []
  scales : List Nat := []
  /-- the k-blocks of 16 that another pass of the window holds: no slot of this column takes their elements of A (R158) -/
  away : List Nat := []
deriving DecidableEq, Repr

/-- The scale byte of block b; 127 on an unscaled side. -/
def Vec.scale (v : Vec) (b : Nat) : Nat := (v.scales[b]?).getD 127

/-- The products of a group of n from lo: every k of it but those that another pass of the window holds (R156, R158). -/
def groupPairs (a b : Vec) (lo n : Nat) : List (Num × Num) :=
  let ps := ((a.els.drop lo).take n).zip ((b.els.drop lo).take n)
  if b.away.isEmpty then ps else (ps.zipIdx.filter fun x => !b.away.contains ((lo + x.2) / 16)).map (·.1)

/-- The contribution of the group of k from lo, and whether it formed a NaN (R148, R150, R151). -/
def contribution (fa fb : Nat) (scaled : Bool) (a b : Vec) (lo : Nat) : Contrib × Bool :=
  let n := if scaled then 32 else 128
  let ps := groupPairs a b lo n
  let xa := if scaled then a.scale (lo / 32) else 127
  let xb := if scaled then b.scale (lo / 32) else 127
  if xa = 255 || xb = 255 then (.special 3, false) else
  match groupSpecial ps with
  | (some k, f) => (.special k, f)
  | (none, _) =>
    if fa ≥ 6 then
      match windowSum ps with
      | some (c, e) => (.fin c e, false)
      | none => (.none, false)
    else (.fin (narrowSum fa fb ps) (fmtLf fa + fmtLf fb + ((xa : Int) - 127) + ((xb : Int) - 127)), false)

/-- Every contribution of one row and one column combined into an entry, in ascending k (R147); none is ACC_RANGE. -/
def combineRow (fa fb : Nat) (scaled : Bool) (a b : Vec) : List Nat → PEnt × Bool → Except (PEnt × Bool) (PEnt × Bool)
  | [], p => .ok p
  | lo :: t, (p, inv) =>
    match contribution fa fb scaled a b lo with
    | (.none, f) => combineRow fa fb scaled a b t (p, inv || f)
    | (.special k, f) =>
      let (q, g) := p.combineSpecial k (fa ≥ 6)
      combineRow fa fb scaled a b t (q, inv || f || g)
    | (.fin c e, f) =>
      match p.combine c e (fa ≥ 6) with
      | some q => combineRow fa fb scaled a b t (q, inv || f)
      | none => .error (p, inv)

/-- The starts of the groups of a tile's logical k. -/
def groupStarts (scaled : Bool) (kt : Nat) : List Nat :=
  let n := if scaled then 32 else 128
  (List.range (kt / n)).map (· * n)

/-- A row of A that is zero in every element (R159). -/
def Vec.isZero (v : Vec) : Bool := v.els.all Num.isZero

/-- A tile without NaN, infinity and scale 0xFF, so that zero rows are skipped (R159). -/
def tilePlain (cols : List Vec) : Bool := cols.all fun c => c.els.all Num.isFin && c.scales.all (· != 255)

/-- What a run over entries gives: the entries, INV, and ACC_RANGE where a combination left its field. -/
structure MmulOut where
  ents : List PEnt := []
  inv : Bool := false
  bad : Bool := false
deriving DecidableEq, Repr

/-- The entries of one row over its columns; after ACC_RANGE the rest stand as they were. -/
def mmulRow (fa fb : Nat) (scaled : Bool) (kt : Nat) (a : Vec) : List (Vec × PEnt) → MmulOut → MmulOut
  | [], o => o
  | (b, p) :: t, o =>
    if o.bad then mmulRow fa fb scaled kt a t { o with ents := o.ents ++ [p] } else
    match combineRow fa fb scaled a b (groupStarts scaled kt) (p, false) with
    | .ok (q, f) => mmulRow fa fb scaled kt a t { o with ents := o.ents ++ [q], inv := o.inv || f }
    | .error (q, f) => mmulRow fa fb scaled kt a t { o with ents := o.ents ++ [q], inv := o.inv || f, bad := true }

/-- Array cycles of the scan of R159 over the rows that are not frozen: per cycles for a row that is not zero. -/
def scanCycles (plain : Bool) (per : Nat) : List Vec → Nat → Nat
  | [], zeros => if zeros = 0 then 0 else 1
  | v :: t, zeros =>
    if plain && v.isZero then
      if zeros = 3 then 1 + scanCycles plain per t 0 else scanCycles plain per t (zeros + 1)
    else per + scanCycles plain per t 0

/-! ### Write-out (R152 to R155) -/

/-- The exponent of the largest power of two a format holds (R155). -/
def fmtEf : Nat → Int
  | 0 => 8
  | 1 => 15
  | 2 => 4
  | 3 => 2
  | 4 => 6
  | _ => 2

/-- The scale byte of a block (R155); 255 where a value is special. -/
def blockScale (f : Nat) (vs : List Num) : Nat :=
  if vs.any fun v => !v.isFin then 255 else
  let tops := vs.filterMap fun v => match v with | .fin _ m e => if m = 0 then none else some (lead m e) | _ => none
  match tops with
  | [] => 127
  | x :: t => (max 0 (min 254 (t.foldl max x - fmtEf f + 127))).toNat

/-- Values written out: their codes, the scales of blocks of 32, the values that the codes stand for, and the status
bits OVF and NAN_LOST. -/
structure Wrote where
  codes : List Nat := []
  scales : List Nat := []
  vals : List Num := []
  ovf : Bool := false
  nanLost : Bool := false
deriving DecidableEq, Repr

/-- Plain write-out of values, each with its draw. -/
def writeVals (f mode : Nat) (sat : Bool) (vs : List (Num × Nat)) : Wrote :=
  let ws := vs.map fun v => writeOut f mode sat v.2 v.1
  { codes := ws.map (·.code), vals := ws.map fun w => decodeNum f w.code, ovf := ws.any (·.ovf), nanLost := ws.any (·.nanLost) }

/-- Block-scaled write-out of at most 32 values. -/
def writeBlock (f mode : Nat) (vs : List (Num × Nat)) : Wrote :=
  let x := blockScale f (vs.map (·.1))
  if x = 255 then { codes := vs.map fun _ => 0, scales := [255], vals := vs.map fun _ => .nan } else
  let k : Int := (x : Int) - 127
  let w := writeVals f mode true (vs.map fun v => (v.1.scale (-k), v.2))
  { w with scales := [x], vals := w.vals.map (Num.scale k) }

def Wrote.append (a b : Wrote) : Wrote :=
  { codes := a.codes ++ b.codes, scales := a.scales ++ b.scales, vals := a.vals ++ b.vals, ovf := a.ovf || b.ovf
    nanLost := a.nanLost || b.nanLost }

/-- Blocks of 32 of a list, fuel its length. -/
def chunks (n : Nat) (l : List α) : List (List α) := (List.range (ceilDiv l.length n)).map fun i => (l.drop (n * i)).take n

/-- The write-out of one row of values (R152, R155). -/
def writeRow (f mode : Nat) (sat bs : Bool) (vs : List (Num × Nat)) : Wrote :=
  if bs then (chunks 32 vs).foldl (fun w c => w.append (writeBlock f mode c)) {} else writeVals f mode sat vs

/-! ### Weight tiles -/

/-- A tile as its logical columns. -/
structure Tile where
  kt : Nat := 128
  cols : List Vec := []
deriving DecidableEq, Repr

/-- Logical k of a tile by FMT_B and SPARSE (R225, R157, R158). -/
def tileK (fb sparse : Nat) : Nat :=
  let k := if fb = 3 || fb = 5 then 256 else 128
  match sparse with
  | 1 => 2 * k
  | 2 => 512
  | _ => k

/-- Bytes of the element values of a dense or 2:4 tile. -/
def tileValueBytes (fb : Nat) : Nat := packedLen (fmtBits fb) ((if fb = 3 || fb = 5 then 256 else 128) * 128)

/-- Bytes of a tile up to its scales, dense or 2:4. -/
def tileBytes (fb sparse : Nat) : Nat := tileValueBytes fb + (if sparse = 1 then tileK fb 1 / 8 * 128 else 0)

/-- Bytes of a tile's scales. -/
def tileScaleBytes (fb sparse : Nat) : Nat := tileK fb sparse / 32 * 128

/-- Bytes that an LDW reads of a dense or 2:4 tile. -/
def tileExtent (fb sparse : Nat) (bs : Bool) : Nat :=
  if bs then roundUp (tileBytes fb sparse) 64 + tileScaleBytes fb sparse else tileBytes fb sparse

/-- The scale bytes of column n (R144), read from the scale array. -/
def colScales (bs : Bool) (kt n : Nat) (arr : List Byte) : List Nat :=
  if bs then ((arr.drop (kt / 32 * n)).take (kt / 32)).map (·.toNat) else []

/-- The scale array of a tile whose elements take len bytes. -/
def scaleArr (bs : Bool) (bytes : List Byte) (len : Nat) : List Byte := if bs then bytes.drop (roundUp len 64) else []

/-- A dense tile: element (k, n) at index 128 k + n. -/
def denseTile (fb : Nat) (bs : Bool) (bytes : List Byte) : Tile :=
  let kt := tileK fb 0
  let arr := scaleArr bs bytes (tileValueBytes fb)
  { kt := kt
    cols := (List.range 128).map fun n => {
      els := (List.range kt).map fun k => decodeNum fb (elemAt (fmtBits fb) bytes (128 * k + n))
      scales := colScales bs kt n arr } }

/-- The nibble of group g of column n of a 2:4 tile (R157). -/
def nibble (fb : Nat) (bytes : List Byte) (n g : Nat) : Nat :=
  elemAt 4 (bytes.drop (tileValueBytes fb)) (tileK fb 1 / 4 * n + g)

/-- A 2:4 tile (R157); none is SPARSE_META. -/
def sparseTile (fb : Nat) (bs : Bool) (bytes : List Byte) : Option Tile :=
  let kt := tileK fb 1
  let bad := (List.range 128).any fun n => (List.range (kt / 4)).any fun g =>
    let x := nibble fb bytes n g; x % 4 ≥ x / 4
  if bad then none else
  let arr := scaleArr bs bytes (tileBytes fb 1)
  let el (n k : Nat) : Num :=
    let g := k / 4
    let x := nibble fb bytes n g
    let at' (p : Nat) : Num := decodeNum fb (elemAt (fmtBits fb) bytes (128 * p + n))
    if k % 4 = x % 4 then at' (2 * g) else if k % 4 = x / 4 then at' (2 * g + 1) else .zero
  some { kt := kt
         cols := (List.range 128).map fun n => { els := (List.range kt).map (el n), scales := colScales bs kt n arr } }

/-- Bit b of bitmap word g of a block-bitmap window (R158). -/
def bitmapBit (bytes : List Byte) (g b : Nat) : Bool := bit (le32 bytes (4 * g)) b

/-- Blocks stored in groups below g, and in group g below block b. -/
def blockIndex (bytes : List Byte) (g b : Nat) : Nat :=
  natSum ((List.range g).map fun h => ((List.range 32).filter (bitmapBit bytes h)).length) +
  ((List.range b).filter (bitmapBit bytes g)).length

/-- Bytes of one 16 × 16 block. -/
def blockBytes (fb : Nat) : Nat := packedLen (fmtBits fb) 256

/-- Bytes of a window up to its scales. -/
def windowBytes (fb : Nat) (bytes : List Byte) : Nat := 32 + blockIndex bytes 8 0 * blockBytes fb

/-- Bytes that an LDW of a block-bitmap window spans. -/
def windowExtent (fb : Nat) (bs : Bool) (bytes : List Byte) : Nat :=
  if bs then roundUp (windowBytes fb bytes) 64 + tileScaleBytes fb 2 else windowBytes fb bytes

/-- Pass p of a block-bitmap window: of each column group, its stored blocks 8p to 8p + 7 (R158). A block that is not stored is
zero in every pass, as in the dense operand; of a block that another pass holds this one takes nothing, so that the passes of a
window add up to the dense product (R156). -/
def windowTile (fb : Nat) (bs : Bool) (pass : Nat) (bytes : List Byte) : Tile :=
  let arr := scaleArr bs bytes (windowBytes fb bytes)
  let nth (g b : Nat) : Nat := ((List.range b).filter (bitmapBit bytes g)).length
  let el (n k : Nat) : Num :=
    let g := n / 16
    let b := k / 16
    if bitmapBit bytes g b && nth g b / 8 == pass then
      decodeNum fb (elemAt (fmtBits fb) (bytes.drop (32 + blockIndex bytes g b * blockBytes fb)) (16 * (k % 16) + n % 16))
    else .zero
  { kt := 512
    cols := (List.range 128).map fun n => {
      els := (List.range 512).map (el n), scales := colScales bs 512 n arr
      away := (List.range 32).filter fun b => bitmapBit bytes (n / 16) b && nth (n / 16) b / 8 != pass } }

/-- The tile of an LDW; none is SPARSE_META. -/
def loadTile (fb sparse : Nat) (bs : Bool) (pass : Nat) (bytes : List Byte) : Option Tile :=
  match sparse with
  | 1 => sparseTile fb bs bytes
  | 2 => some (windowTile fb bs pass bytes)
  | _ => some (denseTile fb bs bytes)

/-- Array cycles of a row of A that is not zero (Table 7.8, R225): 2 for a 4-bit tile, dense or 2:4, in the 8-bit class. -/
def rowCycles (fa fb : Nat) : Nat := if fa ≥ 6 then 4 else if (fb = 3 || fb = 5) && !(fa = 3 || fa = 5) then 2 else 1

end Sys2Proof.Machine
end

