-- ==== Sys2Proof/Machine/Vector.lean ====
section
/-! DEFINITION. Sys2Proof/Machine/Vector.lean: the arithmetic of the vector and table units on plain values: VOP and VRED
(R226, R227), the tables of TEVAL (R178, R179), and the gradient statistics of written values (R199). -/

namespace Sys2Proof.Machine

/-! ### VOP (Table 10.9) -/

/-- Whether an operation of VOP takes b from BMODE. -/
def vopTakesB (fn : Nat) : Bool := fn ≤ 5 || fn == 11 || fn == 12

/-- The binary32 result of an operation that is no compare and no SEL. -/
def vopNum (fn : Nat) (a b scalar : Num) : Num :=
  match fn with
  | 0 => fadd a b
  | 1 => fsub a b
  | 2 => fmul a b
  | 3 => fmax a b
  | 4 => fmin a b
  | 5 => fma32 a scalar b
  | 6 => frecip a
  | 7 => frsqrt (fadd a scalar)
  | 8 => a.abs
  | 9 => a.neg
  | _ => a

/-- The inputs whose NaN an operation may pass on. -/
def vopInputs (fn : Nat) (a b scalar : Num) : List Num :=
  if fn = 5 then [a, scalar, b] else if fn = 7 then [a, scalar] else if vopTakesB fn then [a, b] else [a]

/-- An operation with this result forms a NaN of inputs none of which is one (R154). -/
def formsNan (r : Num) (ins : List Num) : Bool := r.isNan && ins.all fun x => !x.isNan

/-- fma32 does. -/
def fmaInv (a b c : Num) : Bool := formsNan (fma32 a b c) [a, b, c]

/-- An operation of VOP does. -/
def vopInv (fn : Nat) (a b scalar : Num) : Bool :=
  formsNan (vopNum fn a b scalar) (vopInputs fn a b scalar)

/-- The bit of CGT or CGE. -/
def vopBit (fn : Nat) (a b : Num) : Bool :=
  if a.isNan || b.isNan then false else if fn = 11 then b.lt a else !a.lt b

/-! ### VRED (R227, Table 10.10) -/

/-- The four reductions that keep one value, and ARGMAX's pair, as one lane: the value and the index. -/
abbrev Lane := Num × Nat

/-- The identity of a reduction. -/
def vredId (fn : Nat) : Lane := if fn ≥ 3 then (.inf true, 0) else (.zero, 0)

/-- The larger of two (value, index) pairs: a NaN above every number, the earlier index on equality. −0 below +0. -/
def argMax (p q : Lane) : Lane :=
  let earlier := if p.2 ≤ q.2 then p else q
  if p.1.isNan && q.1.isNan then earlier
  else if p.1.isNan then p
  else if q.1.isNan then q
  else if p.1.below q.1 then q
  else if q.1.below p.1 then p
  else earlier

/-- One step of a lane with element x of index i, the element y of aB (DOT) or the row's b (SUMSQD). -/
def vredStep (fn : Nat) (acc : Lane) (x y : Num) (i : Nat) : Lane :=
  match fn with
  | 0 => (fadd acc.1 x, 0)
  | 1 => (fma32 x y acc.1, 0)
  | 2 => let d := fsub x y; (fma32 d d acc.1, 0)
  | 3 => (fmax acc.1 x, 0)
  | _ => argMax acc (x, i)

/-- The combination of two lanes. -/
def vredCombine (fn : Nat) (p q : Lane) : Lane :=
  match fn with
  | 3 => (fmax p.1 q.1, 0)
  | 4 => argMax p q
  | _ => (fadd p.1 q.1, 0)

/-- A step forms a NaN of inputs none of which is one (R154). -/
def vredStepInv (fn : Nat) (acc : Lane) (x y : Num) : Bool :=
  match fn with
  | 0 => formsNan (fadd acc.1 x) [acc.1, x]
  | 1 => fmaInv x y acc.1
  | 2 => let d := fsub x y; formsNan d [x, y] || fmaInv d d acc.1
  | _ => false

/-- A combination of two lanes forms one. -/
def vredCombineInv (fn : Nat) (p q : Lane) : Bool := fn ≤ 2 && formsNan (fadd p.1 q.1) [p.1, q.1]

/-- One halving of the lanes: lane l takes lane l + s; with each lane goes whether one of its operations formed a NaN. -/
def vredHalve (fn s : Nat) (ls : List (Lane × Bool)) : List (Lane × Bool) :=
  (ls.take s).zipWith (fun p q => (vredCombine fn p.1 q.1, p.2 || q.2 || vredCombineInv fn p.1 q.1)) (ls.drop s)

/-- One row reduced: the 128 lanes, then the tree (R227); and whether an operation formed a NaN of inputs none of which is
one (R154). -/
def vredTree (fn : Nat) (xs ys : List Num) : Lane × Bool :=
  let el (l : List Num) (i : Nat) : Num := (l[i]?).getD .zero
  let lane (l : Nat) : Lane × Bool :=
    (List.range (ceilDiv (xs.length - l) 128)).foldl (fun acc j =>
      let i := l + 128 * j
      (vredStep fn acc.1 (el xs i) (el ys i) i, acc.2 || vredStepInv fn acc.1 (el xs i) (el ys i))) (vredId fn, false)
  let ls := (List.range 128).map lane
  let ls := [64, 32, 16, 8, 4, 2, 1].foldl (fun ls s => vredHalve fn s ls) ls
  (ls.head?).getD ((.zero, 0), false)

/-- The result of a row. -/
def vredRow (fn : Nat) (xs ys : List Num) : Lane := (vredTree fn xs ys).1

/-- The elements that a row of VRED uses beside its own: aB's row for DOT, the row's value repeated for SUMSQD. -/
def vredOther (fn : Nat) (row rlen : Nat) (b : List Num) : List Num :=
  if fn = 1 then (b.drop (row * rlen)).take rlen
  else if fn = 2 then List.replicate rlen ((b[row]?).getD .zero)
  else []

/-- An operation of a row of VRED forms a NaN of inputs none of which is one (R154). -/
def vredInv (fn : Nat) (xs ys : List Num) : Bool := (vredTree fn xs ys).2

/-! ### Tables (R178, R179) -/

/-- A word of a table source as binary32. -/
def tableF (bs : List Byte) (off : Nat) : Num := f32 (le32 bs off)

/-- The upper end of a table's domain, XLO + 1,024 × 2^WE. -/
def tableHi (bs : List Byte) : Num :=
  let we := signedN 8 ((bs[4]?).getD 0).toNat
  (tableF bs 0).add (.fin false 1 (we + 10))

/-- A finite value that binary32 holds. -/
def inF32 : Num → Bool
  | .fin n m e =>
    m == 0 || ((floatLsb 23 127 m e ≤ e || m % 2 ^ (floatLsb 23 127 m e - e).toNat == 0) && (rne32 (.fin n m e)).isFin)
  | _ => false

/-- The checks of TLOAD (R178) on the 24,608 bytes of a source; true is TABLE_BAD. -/
def tableBad (bs : List Byte) : Bool :=
  let we := signedN 8 ((bs[4]?).getD 0).toNat
  let b (i : Nat) : Nat := ((bs[i]?).getD 0).toNat
  b 7 != 0 || !zeroBytes bs 24 32 || we < -20 || we > 20 || !(tableF bs 0).isFin || !inF32 (tableHi bs) || b 5 > 1 || b 6 > 1

/-- Coefficient j of segment i of the forward (der = false) or derivative table. -/
def tableCoef (bs : List Byte) (der : Bool) (i j : Nat) : Num := tableF bs (32 + (if der then 12288 else 0) + 12 * i + 4 * j)

/-- A tail of R179. -/
def tableTail (linear : Bool) (slope xe ye x : Num) : Num :=
  if !linear || slope.isZero then ye else fma32 slope (fsub x xe) ye

/-- Where an input falls in a table: below, at or above the domain, or in segment i at u (R179). -/
inductive TablePlace where
  | nan
  | low
  | high
  | seg (i : Nat) (u : Num)
deriving DecidableEq, Repr

/-- The place of an input. -/
def tablePlace (bs : List Byte) (x : Num) : TablePlace :=
  let we := signedN 8 ((bs[4]?).getD 0).toNat
  let xlo := tableF bs 0
  if x.isNan then .nan
  else if x.lt xlo then .low
  else if !x.lt (tableHi bs) then .high
  else
    let d := (x.add xlo.neg).scale (-we)
    let l := min d.expOf 0
    let q := d.atLsb l
    let one : Int := (2 ^ (-l).toNat : Nat)
    let i := (q / one).toNat
    .seg i (rne32 (Num.ofInt (q - i * one) l))

/-- fma32(fma32(c2, u, c1), u, c0) of a segment. -/
def tableSeg (bs : List Byte) (der : Bool) (i : Nat) (u : Num) : Num :=
  fma32 (fma32 (tableCoef bs der i 2) u (tableCoef bs der i 1)) u (tableCoef bs der i 0)

/-- The slope of a tail. -/
def tableSlope (bs : List Byte) (der high : Bool) : Num := tableF bs (8 + (if der then 8 else 0) + (if high then 4 else 0))

/-- teval of R179. -/
def tableEval (bs : List Byte) (der : Bool) (x : Num) : Num :=
  match tablePlace bs x with
  | .nan => .nan
  | .low => tableTail ((bs[5]?).getD 0 != 0) (tableSlope bs der false) (tableF bs 0) (tableCoef bs der 0 0) x
  | .high => tableTail ((bs[6]?).getD 0 != 0) (tableSlope bs der true) (tableHi bs) (tableSeg bs der 1023 (.fin false 1 0)) x
  | .seg i u => tableSeg bs der i u

/-- An operation of a segment's evaluation forms a NaN of inputs none of which is one. -/
def tableSegInv (bs : List Byte) (der : Bool) (i : Nat) (u : Num) : Bool :=
  let c (j : Nat) : Num := tableCoef bs der i j
  fmaInv (c 2) u (c 1) || fmaInv (fma32 (c 2) u (c 1)) u (c 0)

/-- An operation of a tail does. -/
def tableTailInv (linear : Bool) (slope xe ye x : Num) : Bool :=
  linear && !slope.isZero && (formsNan (fsub x xe) [x, xe] || fmaInv slope (fsub x xe) ye)

/-- An operation of an evaluation, of those that the input's place takes, forms a NaN of inputs none of which is one (R154). -/
def tableInv (bs : List Byte) (der : Bool) (x : Num) : Bool :=
  match tablePlace bs x with
  | .nan => false
  | .low => tableTailInv ((bs[5]?).getD 0 != 0) (tableSlope bs der false) (tableF bs 0) (tableCoef bs der 0 0) x
  | .high =>
    let one : Num := .fin false 1 0
    tableSegInv bs der 1023 one || tableTailInv ((bs[6]?).getD 0 != 0) (tableSlope bs der true) (tableHi bs) (tableSeg bs der 1023 one) x
  | .seg i u => tableSegInv bs der i u

/-! ### Statistics (R199) -/

/-- A 32-bit count that saturates. -/
def satAdd (a b : Nat) : Nat := min (2 ^ 32 - 1) (a + b)

/-- The larger of two magnitudes held as binary32 codes. -/
def maxCode (a b : W32) : W32 := if a.toNat ≥ b.toNat then a else b

/-- The statistics of one block of 32 written values. -/
def statBlock (vs : List Num) : W32 × Nat × List Nat :=
  let fins := vs.filter fun v => v.isFin && !v.isZero
  let top (v : Num) : Int := match v with | .fin _ m e => lead m e | _ => 0
  let code (v : Num) : W32 := BitVec.ofNat 32 (f32Code (rne32 v.abs))
  let spec := (vs.filter fun v => !v.isFin).length
  match fins with
  | [] => (0, spec, [])
  | x :: t =>
    let bmax := t.foldl (fun a v => max a (top v)) (top x)
    let bins := fins.map fun v => min ((bmax - top v) / 2).toNat 15
    ((fins.map code).foldl maxCode 0, spec, bins)

end Sys2Proof.Machine
end

