-- ==== Sys2Proof/Machine/Command.lean ====
section
/-! DEFINITION. Sys2Proof/Machine/Command.lean: the issue of commands (R222 to R231): the fields of the mode pair, their
checks, the operands of each command, and its entry into a unit's queue (R117, R118). -/

namespace Sys2Proof.Machine

/-! ### Fields of M0 and M1 (Tables 10.6, 10.7, 10.12) -/

def mView (m : W64) : Bool := bit m 59
def mRel (m : W64) : Bool := bit m 58
def mPriv (m : W64) : Bool := bit m 57
def mFill (m : W64) : Nat := fld m 56 53
def mM (m : W64) : Nat := fld m 43 34
def mRlen (m : W64) : Nat := fld m 52 34
def mMaskg (m : W64) : Nat := fld m 33 32
def mStat (m : W64) : Bool := bit m 31
def mOshift (m : W64) : Int := signedN 8 (fld m 30 23)
def mSat (m : W64) : Bool := bit m 22
def mRound (m : W64) : Nat := fld m 21 19
def mBsOut (m : W64) : Bool := bit m 18
def mOut (m : W64) : Nat := fld m 17 14
def mTa (m : W64) : Bool := bit m 13
def mAcc (m : W64) : Bool := bit m 12
def mSparse (m : W64) : Nat := fld m 11 10
def mBsB (m : W64) : Bool := bit m 9
def mBsA (m : W64) : Bool := bit m 8
def mFmtB (m : W64) : Nat := fld m 7 4
def mFmtA (m : W64) : Nat := fld m 3 0
/-- DSTRIDE in bytes. -/
def mDs (m : W64) : Nat := fld m 63 48 * 64
/-- ASTRIDE in bytes. -/
def mAs (m : W64) : Nat := fld m 47 32 * 64
/-- N, the element count. -/
def mN (m : W64) : Nat := fld m 63 32

/-- The bits of a list of fields. -/
def fieldsMask (l : List (Nat × Nat)) : W64 :=
  l.foldl (fun v f => v ||| BitVec.ofNat 64 ((2 ^ (f.1 + 1 - f.2) - 1) <<< f.2)) 0

/-- The bits of M0 that a command uses (Tables 10.8, 10.11, 10.12, 10.16). -/
def m0Used (op fn : Nat) : W64 :=
  fieldsMask <| match op with
  | 0x20 => [(7, 4), (9, 9), (11, 10), (58, 58)]
  | 0x21 => [(58, 53), (43, 0)]
  | 0x22 => [(57, 53), (43, 34), (31, 14)]
  | 0x24 => [(59, 53), (52, 34), (33, 31), (22, 19), (17, 14), (7, 0)]
  | 0x25 => [(59, 53), (52, 34), (31, 31), (22, 19), (17, 14), (7, 0)]
  | 0x26 => [(57, 53), (31, 31), (17, 14)]
  | 0x28 => [(59, 58)]
  | 0x29 => [(59, 53), (31, 31), (22, 19), (17, 14), (3, 0)]
  | 0x2C => [(59, 53)]
  | 0x2D => [(21, 19), (17, 14), (11, 9), (7, 0)]
  | 0x2E => [(58, 58), (3, 0)]
  | 0x2F => [(57, 53)]
  | 0x31 => [(58, 58), (43, 32), (3, 0)]
  | 0x32 => [(57, 53)]
  | 0x33 => [(57, 53)]
  | 0x34 => [(34, 0)]
  | 0x35 => [(16, 0)]
  | 0x36 => [(33, 0)]
  | 0x37 => if fn / 16 = 0 then [(57, 53)] else [(47, 16), (5, 5), (3, 0)]
  | _ => []

/-- The bits of M1 that a command uses (Table 10.7). -/
def m1Used (op fn : Nat) (m0 : W64) : W64 :=
  fieldsMask <| match op with
  | 0x20 => if mSparse m0 = 2 then [(1, 0)] else []
  | 0x21 => [(63, 0)]
  | 0x22 => [(63, 48)]
  | 0x24 => [(63, 0)]
  | 0x25 => [(63, 0)]
  | 0x26 => [(63, 0)]
  | 0x29 => [(63, 0)]
  | 0x2C => [(7, 0)]
  | 0x2D => [(63, 0)]
  | 0x2E => [(63, 32)]
  | 0x31 => [(63, 32), (7, 0)]
  | 0x33 => [(12, 0)]
  | 0x34 => if bit m0 34 then [(63, 0)] else []
  | 0x36 => [(31, 0)]
  | 0x37 => if fn / 16 = 1 && fld m0 3 0 = 2 then [(12, 0)] else []
  | _ => []

/-- Whether FN is a value that the command has (R218). -/
def fnOk (op fn : Nat) : Bool :=
  match op with
  | 0x24 => fn ≤ 13
  | 0x25 => fn ≤ 4
  | 0x26 => fn ≤ 1
  | 0x28 => fn ≤ 15
  | 0x29 => fn ≤ 31
  | 0x2E => fn ≤ 127
  | 0x2F => fn ≤ 3
  | 0x30 => fn ≤ 3
  | 0x32 => fn ≤ 1
  | 0x37 => fn ≤ 31
  | 0x38 => fn ≤ 15
  | _ => fn == 0

/-! ### Checks of fields (R138, R139, R152, R158, R223 to R231, R422) -/

/-- The first fault of a list of conditions. -/
def firstBad : List (Bool × W16) → Option W16
  | [] => none
  | (b, c) :: t => if b then some c else firstBad t

/-- A code that is no engine input, or a block scale with a code of 6 or above (R138). -/
def badInput (f : Nat) (bs : Bool) : Bool := f ≥ 8 || (bs && f ≥ 6)

/-- SPARSE 3, or block-bitmap encoding of a format that may not have it (R158, Table 7.7). -/
def badSparse (fb sparse : Nat) : Bool := sparse == 3 || (sparse == 2 && !(fb == 0 || fb == 1 || fb == 2 || fb == 4))

/-- A write-out code that is reserved, or a block scale with a code of 6 or above (R138); 0xF where it is allowed. An MMUL with OUT = 0xF
writes nothing out and is accepted with BS_OUT = 1 too: R138 faults a code of 6 or above, and Table 7.7 makes 0xF no format code
(DESIGN CHOICE, log entry 84). -/
def badOut (out : Nat) (bs none : Bool) : Bool := if none && out = 0xF then false else out ≥ 10 || (bs && out ≥ 6)

/-- MMUL. -/
def checkMmul (m0 m1 : W64) (ldw : Option LdwP) : Option W16 :=
  let fa := mFmtA m0
  let fb := mFmtB m0
  let out := mOut m0
  let kb := fld m1 31 0
  firstBad [
    (mM m0 = 0 || mM m0 > 512 || mMaskg m0 = 3 || (mMaskg m0 ≠ 0 && out ≠ 0xF) || (mTa m0 && mM m0 > 128), 0x4032),
    (badInput fa (mBsA m0) || badInput fb (mBsB m0) || decide (fa ≥ 6) != decide (fb ≥ 6), 0x4011),
    (badSparse fb (mSparse m0) || badOut out (mBsOut m0) true || mRound m0 ≥ 5, 0x4011),
    (match ldw with | some l => l.fmtB != fb || l.bsB != mBsB m0 || l.sparse != mSparse m0 | none => true, 0x4032),
    (mBsA m0 && mAs m1 ≠ 0, 0x4032),
    (kb % (if mSparse m0 = 2 then 512 else 128) ≠ 0, 0x4013)]

/-- VOP (R422). -/
def checkVop (fn : Nat) (m0 : W64) : Option W16 :=
  let takes := vopTakesB fn
  let bm := mMaskg m0
  let cmp := fn = 11 || fn = 12
  firstBad [
    (bm = 3 || (!takes && bm ≠ 0) || (decide (bm = 1) != decide (mRlen m0 ≠ 0)), 0x4032),
    (!(takes && bm ≠ 2) && mFmtB m0 ≠ 0, 0x4032),
    (decide (mOut m0 = 0xF) != cmp, 0x4032),
    (mFmtA m0 ≥ 10 || (takes && bm ≠ 2 && mFmtB m0 ≥ 10) || (!cmp && mOut m0 ≥ 10) || mRound m0 ≥ 5, 0x4011)]

/-- VRED (R422). -/
def checkVred (fn : Nat) (m0 m1 : W64) : Option W16 :=
  firstBad [
    (mRlen m0 = 0 || mN m1 % mRlen m0 ≠ 0 || (fn = 4 && mOut m0 ≠ 9) || mOut m0 = 0xF || (!(fn = 1 || fn = 2) && mFmtB m0 ≠ 0), 0x4032),
    (mFmtA m0 ≥ 10 || mFmtB m0 ≥ 10 || mOut m0 ≥ 10 || mRound m0 ≥ 5, 0x4011)]

/-- The number of image cores of a context's image. -/
def Ctx.cores (c : Ctx) : Nat := match c.image with | some im => im.cores | none => 0

/-- SEND and RWRITE (R245). The slice's group names the chips that a message may go to. -/
def checkSend (chip : Nat) (k : Ctx) (op : Nat) (aA m0 m1 : W64) : Option W16 :=
  let dst := fld m0 33 26
  let mcast := op = 0x34 && bit m0 34
  firstBad [
    (dst ≠ 0xFF && dst ≠ chip && !(k.group.linked && k.group.memberPairs.any fun p => p.1 == dst), 0x6005),
    (if mcast then (m1.toNat >>> k.cores) ≠ 0 else fld m0 25 20 ≥ k.cores, 0x4032),
    (arLen aA = 0, 0x4033),
    (arLen aA > 4096, 0x6006)]

/-- Whether ring inbox n is declared on a core for a context (R246). -/
def Core.ringDeclared (k : Core) (i : Slot) (n : Nat) : Bool := k.inboxes.any fun b => b.slot == i && b.num == n

/-- WOPEN (R256, R258, R260). -/
def checkWopen (k : Core) (i : Slot) (det : Bool) (fn : Nat) (m0 : W64) : Option W16 :=
  let n := fn % 16
  let isOpen := match k.wins.at? n with | some w => w.isOpen | none => false
  if fn / 16 = 0 then firstBad [(isOpen, 0x4032)]
  else firstBad [
    (fld m0 3 0 > 3 || fld m0 31 16 = 0 || isOpen || k.ringDeclared i n, 0x4032),
    (det && (fld m0 3 0 = 3 || bit m0 5), 0x600A)]

/-- STASH: reserved encodings and predicates, and the pairings of R195. -/
def checkStash (fn : Nat) (m0 : W64) : Option W16 :=
  let enc := fieldN fn 4 2
  let pred := fieldN fn 6 5
  let src := mFmtA m0
  firstBad [
    (src ≥ 10 && src ≠ 0xF, 0x4011),
    (enc ≥ 4 || pred = 3 || (src = 0xF && !(enc = 1 && pred = 2)) || (pred = 2 && src ≠ 0xF), 0xB005)]

/-- The check of the mode pair of a command at issue. -/
def checkCmd (chip : Nat) (core : Core) (k : Ctx) (i : Slot) (d : Cmd) : Option W16 :=
  let m0 := d.m0
  let m1 := d.m1
  let det := match k.slice with | some s => s.det | none => false
  let dcoreBad := fld m1 7 0 ≠ 0xFF && fld m1 7 0 ≥ k.cores
  if !fnOk d.op d.fn then some 0x4030
  else if m0 &&& ~~~ m0Used d.op d.fn ≠ 0 || m1 &&& ~~~ m1Used d.op d.fn m0 ≠ 0 then some 0x4032
  else
    match d.op with
    | 0x20 => firstBad [(badInput (mFmtB m0) (mBsB m0) || badSparse (mFmtB m0) (mSparse m0), 0x4011)]
    | 0x21 => checkMmul m0 m1 core.seq.ldw
    | 0x22 => firstBad [(mM m0 = 0 || mM m0 > 512 || mOut m0 = 0xF, 0x4032), (badOut (mOut m0) (mBsOut m0) false || mRound m0 ≥ 5, 0x4011)]
    | 0x24 => checkVop d.fn m0
    | 0x25 => checkVred d.fn m0 m1
    | 0x26 => firstBad [(mOut m0 ≠ (if d.fn = 0 then 9 else 8), 0x4032)]
    | 0x29 => firstBad [(mOut m0 = 0xF, 0x4032), (mFmtA m0 ≥ 10 || mOut m0 ≥ 10 || mRound m0 ≥ 5, 0x4011)]
    | 0x2C => firstBad [(dcoreBad, 0x4032)]
    | 0x2D => firstBad [
        (mFmtA m0 ≥ 10, 0x4011),
        (!(mFmtA m0 = 6 || mFmtA m0 = 8) || (mOut m0 ≠ mFmtB m0 && mOut m0 ≠ 6), 0x4032),
        (badInput (mFmtB m0) (mBsB m0) || badSparse (mFmtB m0) (mSparse m0) || !(mRound m0 = 0 || mRound m0 = 4), 0x4011)]
    | 0x2E => checkStash d.fn m0
    | 0x31 => firstBad [(mFmtA m0 ≥ 10, 0x4011), (!(mFmtA m0 = 0 || mFmtA m0 = 8) || mMaskg m0 = 3 || mM m0 = 0 || mM m0 > 512 || dcoreBad, 0x4032)]
    | 0x34 => checkSend chip k d.op d.aA m0 m1
    | 0x36 => checkSend chip k d.op d.aA m0 m1
    | 0x37 => checkWopen core i det d.fn m0
    | _ => none

/-! ### Operands (R222, R225) -/

/-- An operand of a command: the bytes it touches, from the operand's OFFSET, in whole units; its extent; and whether it
is written, carries the release or is a partial-sum operand. `reach` is the most it may span where the extent is known
only when the command runs. -/
structure Opnd where
  reg : W64
  write : Bool := false
  rel : Bool := false
  psum : Bool := false
  reach : Nat := 0
  extent : Nat
  parts : List (Nat × Nat)
deriving DecidableEq, Repr

/-- rows of bytes each, packed (stride 0) or each from its own unit. -/
def rowParts (rows rowBits stride : Nat) : Nat × List (Nat × Nat) :=
  if stride = 0 then
    let n := roundUp (ceilDiv (rows * rowBits) 8) 64
    (n, [(0, n)])
  else
    let u := roundUp (ceilDiv rowBits 8) 64
    ((rows - 1) * stride + u, (List.range rows).map fun r => (r * stride, u))

/-- Element rows followed by their scale array from the next 64-byte boundary. -/
def withScales (p : Nat × List (Nat × Nat)) (bs : Bool) (n : Nat) : Nat × List (Nat × Nat) :=
  if bs then (p.1 + roundUp n 64, p.2 ++ [(p.1, roundUp n 64)]) else p

/-- The rows of A that an MMUL reads (R225, R168). -/
def mmulA (m0 m1 : W64) : Nat × List (Nat × Nat) :=
  let kt := tileK (mFmtB m0) (mSparse m0)
  let w := fmtBits (mFmtA m0)
  let p := if mTa m0 then rowParts kt (mM m0 * w) (mAs m1) else rowParts (mM m0) (kt * w) (mAs m1)
  withScales p (mBsA m0) (mM m0 * kt / 32)

/-- The write-out rows of an MMUL or PSOUT (R225). -/
def outRows (m0 m1 : W64) : Nat × List (Nat × Nat) :=
  withScales (rowParts (mM m0) (128 * fmtBits (mOut m0)) (mDs m1)) (mBsOut m0) (mM m0 * 4)

/-- Units of a run of n bytes. -/
def runParts (n : Nat) : Nat × List (Nat × Nat) := (roundUp n 64, if n = 0 then [] else [(0, roundUp n 64)])

/-- The partial-sum rows of a command, but for the frozen ones. -/
def psumRows (m : Nat) (frozen : Nat → Bool) : Nat × List (Nat × Nat) :=
  (m * 2048, ((List.range m).filter fun r => !frozen r).map fun r => (r * 2048, 2048))

/-- Bytes of a mask of R169. -/
def maskBytes (maskg m : Nat) : Nat := ceilDiv (if maskg = 1 then m else ceilDiv m 16) 8

/-- Bytes of a W or Wᵀ copy of TWLD, K × N elements (R165, R166); a block-bitmap copy at its largest. -/
def copyBytes (f : Nat) (bs : Bool) (sparse k n : Nat) : Nat :=
  let vals := match sparse with
    | 1 => packedLen (fmtBits f) (2 * ceilDiv k 4 * n) + ceilDiv (ceilDiv k 4 * n) 2
    | 2 => ceilDiv k 512 * ceilDiv n 128 * roundUp (32 + 256 * blockBytes f) 64
    | _ => packedLen (fmtBits f) (k * n)
  if bs then roundUp vals 64 + ceilDiv k 32 * n else vals

/-- The operands of a command, reads before writes. Rows that a mask freezes touch no entry (R169). LDW of a block-bitmap
window, RECV, SLOAD and STASH learn their extents when they run, and check them there. -/
def opnds (d : Cmd) (frozen : Nat → Bool) : List Opnd :=
  let m0 := d.m0
  let m1 := d.m1
  let rd (reg : W64) (rel : Bool) (p : Nat × List (Nat × Nat)) : Opnd := { reg := reg, rel := rel, extent := p.1, parts := p.2 }
  let wr (reg : W64) (p : Nat × List (Nat × Nat)) : Opnd := { reg := reg, write := true, extent := p.1, parts := p.2 }
  let ps (o : Opnd) : Opnd := { o with psum := true }
  let n := mN m1
  let els (f k : Nat) : Nat × List (Nat × Nat) := runParts (packedLen (fmtBits f) k)
  match d.op with
  | 0x20 => if mSparse m0 = 2 then [{ rd d.aA false (64, [(0, 64)]) with reach := 32 + 256 * blockBytes (mFmtB m0) + 2112 }]
            else [rd d.aA (mRel m0) (runParts (tileExtent (mFmtB m0) (mSparse m0) (mBsB m0)))]
  | 0x21 =>
    let pr := psumRows (mM m0) frozen
    [rd d.aA (mRel m0) (mmulA m0 m1)] ++ (if mMaskg m0 ≠ 0 then [rd d.aB false (runParts (maskBytes (mMaskg m0) (mM m0)))] else []) ++
    (if mAcc m0 then [ps (rd d.aD false pr)] else []) ++ [ps (wr d.aD pr)] ++
    (if mOut m0 ≠ 0xF then [wr d.aB (outRows m0 m1)] else [])
  | 0x22 => [ps (rd d.aA false (psumRows (mM m0) fun _ => false)), wr d.aD (outRows m0 m1)]
  | 0x24 =>
    let b : List Opnd :=
      if d.fn = 13 then [rd d.aB false (runParts (ceilDiv n 8))]
      else if vopTakesB d.fn && mMaskg m0 ≠ 2 then
        [rd d.aB false (els (mFmtB m0) (if mMaskg m0 = 0 then n else ceilDiv n (mRlen m0)))]
      else []
    [rd d.aA (mRel m0) (els (mFmtA m0) n)] ++ b ++
    [wr d.aD (if mOut m0 = 0xF then runParts (ceilDiv n 8) else els (mOut m0) n)]
  | 0x25 =>
    let rows := n / mRlen m0
    let b : List Opnd := if d.fn = 1 then [rd d.aB false (els (mFmtB m0) n)] else if d.fn = 2 then [rd d.aB false (els (mFmtB m0) rows)] else []
    [rd d.aA (mRel m0) (els (mFmtA m0) n)] ++ b ++ [wr d.aD (els (mOut m0) rows)]
  | 0x26 => [wr d.aD (runParts (4 * n))]
  | 0x28 => [rd d.aA (mRel m0) (runParts 24608)]
  | 0x29 => [rd d.aA (mRel m0) (els (mFmtA m0) n), wr d.aD (els (mOut m0) n)]
  | 0x2C => [rd d.aA (mRel m0) (runParts (arLen d.aA * 64)), wr d.aD (runParts (arLen d.aA * 64))]
  | 0x2D =>
    let k := fld m1 31 0
    let copy (reg : W64) (f : Nat) (bs : Bool) (sp a b : Nat) : Opnd :=
      let most := copyBytes f bs sp a b
      if sp = 2 then { wr reg (64, []) with reach := most } else wr reg (runParts most)
    [rd d.aA false (els (mFmtA m0) (k * n)), copy d.aD (mFmtB m0) (mBsB m0) (mSparse m0) k n,
     copy d.aB (mOut m0) (mBsB m0 && mOut m0 == mFmtB m0) (if mSparse m0 = 2 then 2 else 0) n k]
  | 0x2E => [rd d.aA (mRel m0) (runParts (if mFmtA m0 = 0xF then ceilDiv n 8 else packedLen (fmtBits (mFmtA m0)) n))]
  | 0x31 =>
    let src := if mFmtA m0 = 0 then ps (rd d.aA (mRel m0) (psumRows (mM m0) frozen))
               else
                 let st := if mAs m1 = 0 then 512 else mAs m1
                 rd d.aA (mRel m0) ((rowParts (mM m0) 4096 (mAs m1)).1, ((List.range (mM m0)).filter fun r => !frozen r).map fun r => (r * st, 512))
    [src] ++ (if mMaskg m0 ≠ 0 then [rd d.aB false (runParts (maskBytes (mMaskg m0) (mM m0)))] else []) ++
    [wr d.aD (rowParts (mM m0) 8192 (mDs m1))]
  | 0x32 => [rd d.aA false (runParts (arLen d.aA * 64)), wr d.aD (runParts (arLen d.aA * 32))]
  | 0x33 => [rd d.aA false (runParts (arLen d.aA * 64)), wr d.aD (runParts (arLen d.aA * 8 + arLen d.aA / 2))]
  | 0x34 => [rd d.aA false (runParts (arLen d.aA * 64))]
  | 0x36 => [rd d.aA false (runParts (arLen d.aA * 64))]
  | _ => []

/-- The core that a command writes its aD on: DCORE of MOVE and GACC, else its own. -/
def State.destCore (s : State) (c : PCore) (x : Inst) (d : Cmd) : PCore :=
  let n := fld d.m1 7 0
  if (d.op = 0x2C || d.op = 0x31) && n ≠ 0xFF then (s.imageCore (s.ctx x.slot).policy.pitch n).getD c else c

/-- The core an operand lies on. -/
def State.opndCore (s : State) (c : PCore) (x : Inst) (d : Cmd) (o : Opnd) : PCore := if o.write then s.destCore c x d else c

/-- A memory in which the rule of a command does not let its operand lie: an LDW tile outside weight and activation
memory (R225), a weight copy (R164), a STASH source outside scratch (R185), a GAB range, or an activation operand of the gradient commands (R173, R175, R204). -/
def wrongMem (d : Cmd) (o : Opnd) (e : HEnt) : Bool :=
  (o.psum && e.mem != 2) ||
  match d.op with
  | 0x20 => decide (e.mem > 1)
  | 0x2D => o.write && e.mem != 0
  | 0x2E => !o.write && decide (e.mem ≥ 5)
  | 0x31 => if o.write then e.mem != 3 else !o.psum && o.reg == d.aA && mFmtA d.m0 == 8 && e.mem != 1
  | 0x32 => e.mem != (if o.write then 1 else 3)
  | 0x33 => e.mem != (if o.write then 1 else 3)
  | _ => false

/-- SEQ_OPERAND at issue: LEN 0 or too short for the extent, a declared inbox (R246), a partial-sum operand off its rows,
or an operand in the wrong memory (R222, R225). -/
def State.opndBad (s : State) (c : PCore) (x : Inst) (d : Cmd) (o : Opnd) : Bool :=
  arLen o.reg = 0 || o.extent > arLen o.reg * 64 || (o.psum && arOff o.reg % 32 ≠ 0) ||
  match (s.core (s.opndCore c x d o)).handle x.slot (arHandle o.reg) with
  | some e => e.isRing || wrongMem d o e
  | none => false

/-- The registers of a command name a declared inbox, an arena outside transient activation memory (R185), or a window
outside it (R256), for the commands whose operands are not in `opnds`. -/
def State.regBad (s : State) (c : PCore) (x : Inst) (d : Cmd) : Bool :=
  match d.op with
  | 0x2E => arLen d.aD = 0 || match (s.core c).handle x.slot (arHandle d.aD) with
    | some e => e.isRing || e.mem ≠ 1 || e.cls ≠ 0
    | none => false
  | 0x37 => arLen d.aD = 0 || match (s.core c).handle x.slot (arHandle d.aD) with
    | some e => e.isRing || e.mem ≠ 1 || e.cls ≠ 0 || (arOff d.aD + arLen d.aD) * 64 > e.size * 256
    | none => false
  | 0x2F => arLen d.aD = 0 || match (s.core c).handle x.slot (arHandle d.aD) with | some e => e.isRing || e.mem ≠ 1 | none => false
  | 0x35 => arLen d.aD = 0 || match (s.core c).handle x.slot (arHandle d.aD) with | some e => e.isRing | none => false
  | _ => false

/-! ### Issue -/

/-- The unit of a command: 0 engine, 1 vector, 2 table, 3 move. -/
def unitOf (op : Nat) : Nat := if op ≤ 0x22 then 0 else if op ≤ 0x26 then 1 else if op ≤ 0x29 then 2 else 3

/-- Whether the command writes off the block or to another core, so that its result leaves the core (R133): STASH and SLOAD
write a directory entry, and STASH a spilled item, through the memory ports. -/
def State.leaves (s : State) (c : PCore) (x : Inst) (d : Cmd) : Bool :=
  d.op = 0x2E || d.op = 0x2F || d.op = 0x34 || d.op = 0x36 || s.destCore c x d != c ||
  (d.op = 0x35 && match (s.core c).handle x.slot (arHandle d.aD) with | some e => decide (e.mem ≥ 5) | none => false) ||
  (opnds d fun _ => false).any fun o => o.write &&
    match (s.core c).handle x.slot (arHandle o.reg) with | some e => e.mem ≥ 5 | none => false

/-- Whether the issue of a command ends pre-emptibility (R217, R252). -/
def State.cmdEndsPre (s : State) (c : PCore) (x : Inst) (d : Cmd) : Bool :=
  [0x2E, 0x2F, 0x31, 0x33, 0x34, 0x35, 0x36, 0x37].contains d.op || (d.op = 0x32 && d.fn = 1) ||
  (d.op = 0x2C && s.destCore c x d != c) ||
  (opnds d fun _ => false).any fun o => o.write &&
    match (s.core (s.opndCore c x d o)).handle x.slot (arHandle o.reg) with | some e => e.endsPre | none => false

/-- Whether the command returns a result in s(2m + 1) (Tables 10.11, 10.13). -/
def hasResult (op : Nat) : Bool := op == 0x30 || op == 0x35 || op == 0x37

/-- The bytes that a command's result takes in the release buffer. -/
def leaveBytes (d : Cmd) : Nat :=
  if d.op = 0x34 || d.op = 0x36 then arLen d.aA * 64
  else if d.op = 0x2E then 16 + natSum ((opnds d fun _ => false).map (·.extent))
  else if d.op = 0x2F then 16
  else if d.op = 0x35 then arLen d.aD * 64
  else natSum ((opnds d fun _ => false).filterMap fun o => if o.write && !o.psum then some o.extent else none)

/-- No room in the release buffer of 16 KiB for the result (R133): the results that wait there, and those of commands that
were issued before and have not completed, hold their part of it. A result larger than the buffer goes through it alone. -/
def Core.bufferFull (k : Core) (d : Cmd) : Bool :=
  let used := natSum (k.relBuf.map (·.bytes)) + natSum ((k.cmds.filter fun e => e.seq.isSome).map leaveBytes)
  used > 0 && used + leaveBytes d > 16384

/-- The arena of a core: its cursor, its live items and its handle (R185, R186). -/
def Ctx.arenaOf (k : Ctx) (c : PCore) : Nat × Nat × Nat := (k.arena.find c.val).getD (0, 0, 0)

/-- The ranges that a SLOAD may read: the arena of the slice, and those that the STASHes before it name (R185, R194). -/
def State.sloadRanges (s : State) (c : PCore) (i : Slot) : List Range :=
  let held := match (s.ctx i).arena.find c.val with | some a => [a.2.2] | none => []
  let named := ((s.core c).cmds.filter fun e => e.op == 0x2E && e.inst.slot == i).map fun e => arHandle e.aD
  (held ++ named).flatMap fun h => match (s.core c).handle i h with | some e => s.rangesOf c i h 0 (e.size * 256) | none => []

/-- The accumulators that a RECV may read: of each combining inbox that it names, opened or with its WOPEN before it
(R258, R260). -/
def State.recvRanges (s : State) (c : PCore) (i : Slot) (d : Cmd) : List Range :=
  ((List.range 16).filter fun n => bit d.m0 n).flatMap fun n =>
    let w := (s.core c).win n
    (if w.isOpen && w.combining then [⟨c, 1, w.lo, w.lo + w.len⟩] else []) ++
    ((s.core c).cmds.filter fun e => e.op == 0x37 && e.fn == 16 + n && e.inst.slot == i).flatMap (·.writes)

/-- The ranges that a command reads or writes on its own core or off the block, for the scoreboard (R118): its operands; of
SLOAD the arenas, and of RECV the accumulators, that it may read; of GREAD with RETIRE and of GXENC the delta range that they
write too (R175, R204). -/
def State.cmdRanges (s : State) (c : PCore) (x : Inst) (d : Cmd) (write : Bool) : List Range :=
  (((opnds d fun _ => false).filter fun o => o.write == write && s.opndCore c x d o == c).flatMap fun o =>
    s.rangesOf c x.slot (arHandle o.reg) (arOff o.reg * 64) (max o.extent o.reach)) ++
  (if !write then
     (if d.op = 0x2F then s.sloadRanges c x.slot else if d.op = 0x35 then s.recvRanges c x.slot d else [])
   else if (d.op = 0x32 && d.fn = 1) || d.op = 0x33 then s.rangesOf c x.slot (arHandle d.aA) (arOff d.aA * 64) (arLen d.aA * 64)
   else if d.op = 0x2F || d.op = 0x35 || d.op = 0x37 then s.rangesOf c x.slot (arHandle d.aD) (arOff d.aD * 64) (arLen d.aD * 64)
   else if d.op = 0x2E then
     match (s.core c).handle x.slot (arHandle d.aD) with
     | some e => s.rangesOf c x.slot (arHandle d.aD) 0 (e.size * 256)
     | none => []
   else [])

/-- Vector and table commands whose N may be 0, which then cost their issue only (R422). -/
def emptyCmd (d : Cmd) : Bool := (d.op = 0x24 || d.op = 0x25 || d.op = 0x26 || d.op = 0x29) && mN d.m1 == 0

/-- A command enters its unit's queue. -/
def State.enqueue (s : State) (c : PCore) (x : Inst) (d : Cmd) : State :=
  let pc := (s.core c).seq.pc.toNat
  let s := if s.cmdEndsPre c x d then s.endPre c else s
  let out := s.leaves c x d
  let d := { d with seq := if out then some (s.core c).nextSeq else none }
  let s := s.modCore c fun k =>
    let q : Seq := { k.seq with
      cmdNum := k.seq.cmdNum + 1
      pend := if hasResult d.op then k.seq.pend ++ [d.res] else k.seq.pend
      ldw := if d.op = 0x20 then some { fmtB := mFmtB d.m0, bsB := mBsB d.m0, sparse := mSparse d.m0, pass := fld d.m1 1 0, aA := d.aA } else k.seq.ldw }
    let u := unitOf d.op
    { k with seq := q, queues := k.queues.putN u ((k.queues.at? u).getD [] ++ [d]), nextSeq := if out then k.nextSeq + 1 else k.nextSeq }
  let s := s.goNext c
  if d.op = 0x35 && (s.core c).seq.inst.isSome then
    (s.modSeq c fun q => { q with mode := .recv }).hang (oCore c) 0 0x07 x.slot.val (BitVec.ofNat 64 (pc ||| 1 <<< 16))
  else s

/-- The command of an instruction word (format C), with what it copies at issue. -/
def State.cmdOf (s : State) (c : PCore) (x : Inst) (op : Nat) (w : BitVec 26) : Cmd :=
  let q := (s.core c).seq
  let m := fld w 13 10
  let d : Cmd := {
    op := op, fn := fld w 9 0, aD := q.ar (fAD w), aA := q.ar (fAA w), aB := q.ar (fAB w), m0 := q.sr (2 * m), m1 := q.sr (2 * m + 1)
    res := 2 * m + 1, inst := x, num := q.cmdNum, time := BitVec.ofNat 64 s.clk.time
    ldw := q.ldw.getD {}, rotFrom := match q.lastRecv with | some n => (n + 1) % 16 | none => 0 }
  { d with writes := s.cmdRanges c x d true, reads := s.cmdRanges c x d false }

/-- A command instruction (R222). -/
def State.command (s : State) (c : PCore) (op : BitVec 6) (w : BitVec 26) : State :=
  s.issue c op w fun x s =>
    let q := (s.core c).seq
    let m := fld w 13 10
    if q.pend.contains (2 * m) || q.pend.contains (2 * m + 1) then s else
    let d := s.cmdOf c x op.toNat w
    match checkCmd s.mgmt.chip (s.core c) (s.ctx x.slot) x.slot d with
    | some code => s.fault c x.slot code
    | none =>
      if emptyCmd d then s.goNext c
      else if ((opnds d fun _ => false).any (s.opndBad c x d)) || s.regBad c x d then s.fault c x.slot 0x4033
      else if (((s.core c).queues.at? (unitOf d.op)).getD []).length ≥ 16 then s
      else if !d.writes.isEmpty && ((s.core c).cmds.filter fun e => !e.writes.isEmpty).length ≥ 32 then s
      else if s.leaves c x d && (s.core c).bufferFull d then s
      else s.enqueue c x d

/-! ### The commands of Tables 10.8, 10.11, 10.13 and of the vector and table units -/

def execLdw (core : PCore) (w : BitVec 26) (s : State) : Host.Outcome State Fault Refusal := s.run fun s => s.command core 0x20 w
def execMmul (core : PCore) (w : BitVec 26) (s : State) : Host.Outcome State Fault Refusal := s.run fun s => s.command core 0x21 w
def execPsout (core : PCore) (w : BitVec 26) (s : State) : Host.Outcome State Fault Refusal := s.run fun s => s.command core 0x22 w
def execVop (core : PCore) (w : BitVec 26) (s : State) : Host.Outcome State Fault Refusal := s.run fun s => s.command core 0x24 w
def execVred (core : PCore) (w : BitVec 26) (s : State) : Host.Outcome State Fault Refusal := s.run fun s => s.command core 0x25 w
def execVrand (core : PCore) (w : BitVec 26) (s : State) : Host.Outcome State Fault Refusal := s.run fun s => s.command core 0x26 w
def execTload (core : PCore) (w : BitVec 26) (s : State) : Host.Outcome State Fault Refusal := s.run fun s => s.command core 0x28 w
def execTeval (core : PCore) (w : BitVec 26) (s : State) : Host.Outcome State Fault Refusal := s.run fun s => s.command core 0x29 w
def execMove (core : PCore) (w : BitVec 26) (s : State) : Host.Outcome State Fault Refusal := s.run fun s => s.command core 0x2C w
def execTwld (core : PCore) (w : BitVec 26) (s : State) : Host.Outcome State Fault Refusal := s.run fun s => s.command core 0x2D w
def execStash (core : PCore) (w : BitVec 26) (s : State) : Host.Outcome State Fault Refusal := s.run fun s => s.command core 0x2E w
def execSload (core : PCore) (w : BitVec 26) (s : State) : Host.Outcome State Fault Refusal := s.run fun s => s.command core 0x2F w
def execSquery (core : PCore) (w : BitVec 26) (s : State) : Host.Outcome State Fault Refusal := s.run fun s => s.command core 0x30 w
def execGacc (core : PCore) (w : BitVec 26) (s : State) : Host.Outcome State Fault Refusal := s.run fun s => s.command core 0x31 w
def execGread (core : PCore) (w : BitVec 26) (s : State) : Host.Outcome State Fault Refusal := s.run fun s => s.command core 0x32 w
def execGxenc (core : PCore) (w : BitVec 26) (s : State) : Host.Outcome State Fault Refusal := s.run fun s => s.command core 0x33 w
def execSend (core : PCore) (w : BitVec 26) (s : State) : Host.Outcome State Fault Refusal := s.run fun s => s.command core 0x34 w
def execRecv (core : PCore) (w : BitVec 26) (s : State) : Host.Outcome State Fault Refusal := s.run fun s => s.command core 0x35 w
def execRwrite (core : PCore) (w : BitVec 26) (s : State) : Host.Outcome State Fault Refusal := s.run fun s => s.command core 0x36 w
def execWopen (core : PCore) (w : BitVec 26) (s : State) : Host.Outcome State Fault Refusal := s.run fun s => s.command core 0x37 w
def execWclose (core : PCore) (w : BitVec 26) (s : State) : Host.Outcome State Fault Refusal := s.run fun s => s.command core 0x38 w

end Sys2Proof.Machine
end

