-- ==== Sys2Proof/Machine/Tick.lean ====
section
/-! DEFINITION. Sys2Proof/Machine/Tick.lean: the passing of one fabric cycle, which is what a step does when no command
waits (log entry 5). -/

namespace Sys2Proof.Machine

/-- n fabric cycles of an enabled token bucket (R100): it gains RATE in each, up to BURST × 256. -/
def Bucket.refill (b : Bucket) (n : Nat) : Bucket :=
  let rate := fld b.live 15 0
  if rate = 0 then b else { b with count := min (fld b.live 31 16 * 256) (b.count + n * rate) }

/-- The buckets of a pitch over n fabric cycles. -/
def PitchSt.refill (p : PitchSt) (n : Nat) : PitchSt := { p with rd := p.rd.refill n, wr := p.wr.refill n, tx := p.tx.refill n }

/-- The array cycles, in fifteenths, that n fabric cycles of 1.5 GHz are at the array clock, with the part left from before;
none while the A-loop is unlocked (R8, R379). -/
def State.arrayParts (s : State) (n : Nat) : Nat := if s.pwr.alock then s.clk.part + n * s.pwr.aclk else s.clk.part

/-- The length of S1 in ns: 65,536 words of each array are written, one in a fabric cycle (Table 17.6). -/
def ramsTime : Nat := 43691

/-- S1 ends when the control domain's arrays are written, and S2 begins (Table 17.6). -/
def State.ramsWritten (s : State) : State :=
  let e := s.cfg.stageAt + ramsTime
  if s.cfg.stage = 1 && !s.cfg.done && decide (e ≤ s.clk.time) then { s with cfg := { s.cfg with stage := 2, stageAt := e } } else s

/-- The clocks move on: the buckets of every pitch gain their RATE in each fabric cycle gone by, the cycles are counted,
responses become overdue, and S1 may end (R8, R100, R360, R362, R385). -/
def State.moveClk (s : State) (c : ClkSt) : State :=
  let n := c.cycle - s.clk.cycle
  let a := s.arrayParts n
  let t := s.countCycles n (a / 15)
  ({ t with clk := { c with part := a % 15 }, pits := s.pits.map fun p => p.refill n } : State).noteOverdue.ramsWritten

/-- The clocks in one fabric cycle: 2/3 ns of the 1 GHz time-stamp clock (R8, R379). -/
def ClkSt.tick (c : ClkSt) : ClkSt :=
  if c.third = 0 then { c with third := 2, cycle := c.cycle + 1 }
  else { c with time := c.time + 1, third := c.third - 1, cycle := c.cycle + 1 }

/-- One fabric cycle goes by. Without a locked T-loop and F-loop nothing counts (R379, R385). -/
def State.tick (s : State) : State :=
  if s.pwr.tlock && s.pwr.flock then s.moveClk s.clk.tick else s

/-- The time-stamp moves on to a moment that a timed event names, whole nanoseconds (log entry 6). -/
def State.advanceTo (s : State) (t : Nat) : State :=
  if t ≤ s.clk.time then s
  else s.moveClk { time := t, third := 0, cycle := s.clk.cycle + ((t - s.clk.time) * 3 + 1) / 2 }

end Sys2Proof.Machine
end

