-- ==== Sys2Proof/Machine/Instance.lean ====
section
/-! DEFINITION. Sys2Proof/Machine/Instance.lean: the life of an instance on a core: kernel entry (R211), POST, DONE, TAKE
and WAIT (R212 to R216, R232), fill notices (R130) and breakpoint halts (R351). -/

namespace Sys2Proof.Machine

/-- DATA of a sequencer event of Table 16.5. -/
def seqData (q : Seq) (x : Inst) (top : Nat) : W64 :=
  BitVec.ofNat 64 (q.pc.toNat ||| x.task <<< 18 ||| x.gen.toNat <<< 36 ||| top <<< 48)

/-! ### Kernel entry (R211, Table 10.2) -/

/-- The address register of a port from its token: LEN is the room to the end of the handle's extent. Where the handle is absent LEN is
0, as R211 says, and neither the entry nor a POST faults: R126 and Table 6.8 name HANDLE_BAD for a token without the moment, and the
first command that uses the handle meets it (DESIGN CHOICE, log entry 84). -/
def Core.entryAr (k : Core) (i : Slot) (t : Token) : W64 :=
  if !t.ref then 0 else
  let room : Nat := match k.handle i t.handle with
    | some e => min (e.size * 4 - t.offset) (2 ^ 24 - 1)
    | none => 0
  arMake t.handle room t.offset

/-- The general registers at kernel entry. -/
def entryRegs (r : DispatchRec) : Tab W64 32 :=
  let w (i : Nat) : W64 := ((r.words[i]?).getD 0).zeroExtend 64
  let s : Tab W64 32 := Tab.fill 32 0
  let s := (((s.putN 0 ((w 5) <<< 32 ||| w 4)).putN 1 ((w 1) <<< 32 ||| w 0)).putN 2 (w 3)).putN 3 ((w 6) <<< 32 ||| w 7)
  (r.tokens.zipIdx).foldl (fun s t => s.putN (16 + t.2) (if t.1.inl then t.1.value else 0)) s

/-- The address registers at kernel entry. -/
def Core.entryArs (k : Core) (i : Slot) (r : DispatchRec) : Tab W64 16 :=
  (r.tokens.zipIdx).foldl (fun a t => a.putN t.2 (k.entryAr i t.1)) (Tab.fill 16 0)

/-- The instance that a dispatch record starts (Table 4.4). -/
def State.entryInst (s : State) (i : Slot) (r : DispatchRec) : Inst :=
  let w (k : Nat) : W32 := (r.words[k]?).getD 0
  let c := s.ctx i
  { slot := i, idx := r.idx, task := fld (w 0) 17 0, gen := BitVec.ofNat 12 (fld (w 0) 31 20), level := fld (w 0) 19 18
    layer := fld (w 3) 7 0, atomic := fld (w 3) 31 16, ord := fld (w 3) 15 8, nout := fld (w 6) 12 8, npred := fld (w 6) 4 0
    rerun := bit (w 7) 0, recomp := r.recomp, base := c.kernBase
    klen := match c.image with | some im => im.kernelLen | none => 0 }

/-- DATA of a block event of Table 16.5: RECV, WAIT or TAKE as 1, 2, 3. -/
def blockData (q : Seq) (what : Nat) : W64 := BitVec.ofNat 64 (q.pc.toNat ||| what <<< 16)

/-- A dispatch record in the dispatch slot starts its kernel, in a core that has no instance. -/
def State.kernelEntry (s : State) (c : PCore) : State :=
  let q := (s.core c).seq
  match q.slot, slot? ((q.slot.getD {}).slot), s.runs && (q.mode == .halt || q.mode == .take) with
  | some r, some i, true =>
    let x := s.entryInst i r
    let entry := fld ((r.words[2]?).getD 0) 29 16
    let pre := match s.mkt.tasks.find r.idx with | some e => e.state == 3 | none => false
    let s := s.modCore c fun k =>
      let q' : Seq := { k.seq with
        mode := .run, s := entryRegs r, a := k.entryArs i r, pc := BitVec.ofNat 14 (entry - x.base / 4)
        preds := 0, posted := 0, arith := 0, pend := [], inst := some x, preemptible := pre, ldw := none, heldRel := []
        anyPost := false, wrote := [], lastRecv := none, brkDrain := false, brkHalt := false, skipPc := none, stepOne := false
        brkCode := none, brkStep := false, slot := none, stat := {}, killReq := false }
      { k with seq := q' }
    let s := s.countCore c 22 1
    let s := if q.mode == .take then s.hang (oCore c) 0 0x08 i.val (blockData q 3) else s
    s.hang (oCore c) 0 0x01 i.val (seqData (s.core c).seq x 0)
  | _, _, _ => s

/-! ### POST and DONE -/

/-- A remote window write of the context, sent by this core, is on its way to a core of this chip (R130). -/
def State.rwriteFlying (s : State) (c : PCore) (i : Slot) : Bool :=
  allCores.any fun k => (s.core k).meshIn.any fun it =>
    it.hdr.kind == kWrite && it.slot == i.val && it.hdr.srcChip == s.mgmt.chip && some it.hdr.srcCore == s.icoreOf c

/-- Every command and write of the instance on a core has completed (R130, R212). -/
def State.quiet (s : State) (c : PCore) (x : Inst) : Bool :=
  (s.core c).cmds.isEmpty && !s.rwriteFlying c x.slot && !((s.core c).relBuf.any fun r => r.slot == x.slot) &&
  !((s.ctx x.slot).spillq.any fun it => it.core == c) &&
  !s.writing fun o => match o with | .slice i k _ => i == x.slot && k == c | .spill i k => i == x.slot && k == c | _ => false

/-- Fill notices go to the cores that the instance has written (R130). -/
def State.sendNotices (s : State) (c : PCore) (x : Inst) (isDone : Bool) : State :=
  (s.core c).seq.wrote.foldl (fun s r => s.modCore r fun k => { k with notices := k.notices ++ [(c, isDone, x.slot)] }) s

/-- The last part of POST: slot changes on this core, held releases at the first POST, and the token (R212). -/
def State.finishPost (s : State) (c : PCore) (x : Inst) (out : Nat) (t : Token) : State :=
  let first := !(s.core c).seq.anyPost
  let s := s.modCore c fun k => k.publish c false
  let s := if first then s.applyHeld c else s
  let s := s.modSeq c fun q => { q with posted := setBit q.posted out true, wrote := [], mode := .run }
  let s := s.endPre c
  let s : State := { s with mkt := { s.mkt with inq := s.mkt.inq.put c (s.mkt.inq.get c ++ [.post x out t]) } }
  let s := s.hang (oCore c) 0 0x02 x.slot.val (seqData (s.core c).seq x out)
  s.goNext c

/-- The token of POST (R212). -/
def postToken (q : Seq) (w : BitVec 26) : Token :=
  let a := q.ar (fAA w)
  let ref := bit w 12
  let inl := bit w 11
  { ref := ref, inl := inl, handle := if ref then arHandle a else 0, offset := if ref then arOff a else 0
    value := if inl then q.sr (fSB w) else 0 }

def State.post (s : State) (c : PCore) (w : BitVec 26) : State :=
  s.issue c 0x3A w fun x s =>
    let q := (s.core c).seq
    let out := fAD w
    let bad : Option W16 :=
      if fld w 10 0 ≠ 0 || (!bit w 12 && fAA w ≠ 0) || (!bit w 11 && fSB w ≠ 0) then some 0x4030
      else if out ≥ x.nout then some 0x4034
      else if bit q.posted out then some 0x3105
      else none
    s.scalar c x bad (if bit w 11 then [fSB w] else []) fun q =>
      if !s.quiet c x then s
      else if q.wrote.isEmpty then s.finishPost c x out (postToken q w)
      else (s.sendNotices c x false).modSeq c fun q' => { q' with mode := .posting out (postToken q w) q.wrote }

/-- The instance's windows and combining inboxes close (R256). -/
def Core.closeWins (k : Core) (x : Inst) : Core :=
  { k with wins := k.wins.map fun w => if w.isOpen && w.owner == some x then w.shut else w }

/-- The sequencer's state after its instance has gone while a TAKE is still to come: it stays in TAKE (R215, R216). -/
def State.toIdle (s : State) (c : PCore) : State := s.modSeq c fun q => q.abandon (s.idleMode c)

/-- What follows DONE (R214): halt in push mode; in pull mode the TAKE after it is next, and anything else faults. -/
def State.afterDone (s : State) (c : PCore) (x : Inst) : State :=
  let pc := (s.core c).seq.pc.toNat + 1
  let s := (s.countCore c 19 1).modSeq c fun q => { q.abandon (s.idleMode c) with pc := BitVec.ofNat 14 pc }
  if s.idleMode c ≠ .take then s
  else if pc ≥ x.klen / 4 then (s.fault c x.slot 0x4031).toIdle c
  else if opcodeOf (s.kernelWord c x pc) ≠ 0x3C then (s.fault c x.slot 0x4036).toIdle c
  else s.modSeq c fun q => { q with mode := .atTake, inst := some x }

/-- The last part of DONE: OUTPUT_MISSING, held releases, the DONE rows of Table 6.6, and the retirement (R214). -/
def State.finishDone (s : State) (c : PCore) (x : Inst) : State :=
  let q := (s.core c).seq
  if q.posted.toNat ≠ 2 ^ x.nout - 1 then s.fault c x.slot 0x3101 else
  let s := s.modCore c fun k => (k.publish c true).closeWins x
  let s := s.applyHeld c
  let preds := BitVec.ofNat 16 (q.preds.toNat % 2 ^ x.npred)
  let s : State := { s with mkt := { s.mkt with inq := s.mkt.inq.put c (s.mkt.inq.get c ++ [.retire x preds q.stat]) } }
  let s := s.hang (oCore c) 0 0x03 x.slot.val (seqData q x 0)
  s.afterDone c x

def State.doneOp (s : State) (c : PCore) (w : BitVec 26) : State :=
  s.issue c 0x3B w fun x s => s.scalar c x (illegalUnless (w == 0)) [] fun q =>
    if !s.quiet c x then s
    else if q.wrote.isEmpty then s.finishDone c x
    else (s.sendNotices c x true).modSeq c fun q' => { q' with mode := .ending q.wrote }

/-- TAKE (R215). -/
def State.takeOp (s : State) (c : PCore) (w : BitVec 26) : State :=
  let q := (s.core c).seq
  match q.mode, q.inst with
  | .atTake, some x =>
    if !s.runs || s.kernelWord c x q.pc.toNat ≠ seqWord 0x3C w then s
    else if w ≠ 0 then (s.fault c x.slot 0x4030).toIdle c
    else
      let s := (s.countCore c 19 1).toIdle c
      s.hang (oCore c) 0 0x07 x.slot.val (blockData q 3)
  | _, _ => s.issue c 0x3C w fun x s => s.fault c x.slot 0x4030

/-- A core receives a fill notice of another: the slot changes take effect, then it acknowledges; the last
acknowledgement lets the POST or DONE go on (R130). -/
def State.fillNotice (s : State) (core src : PCore) : State :=
  if !s.runs then s else
  match (s.core core).notices.find? fun n => n.1 == src with
  | none => s
  | some n =>
    let s := s.modCore core fun k => { k.publish src n.2.1 with notices := k.notices.erase n }
    let q := (s.core src).seq
    match q.mode, q.inst with
    | .posting out t waits, some x =>
      let waits := waits.erase core
      if waits.isEmpty then s.finishPost src x out t else s.modSeq src fun q => { q with mode := .posting out t waits }
    | .ending waits, some x =>
      let waits := waits.erase core
      if waits.isEmpty then s.finishDone src x else s.modSeq src fun q => { q with mode := .ending waits }
    | _, _ => s

/-! ### WAIT (R232) -/

/-- The condition of a WAIT: v is the register value for TIME, and the register number for REG. -/
def State.waitMet (s : State) (c : PCore) (imm : W16) (v : W64) : Bool :=
  let k := s.core c
  match fld imm 2 0 with
  | 0 => k.cmds.isEmpty
  | 1 => (List.range 4).all fun u => !bit imm (8 + u) || ((k.queues.at? u).getD []).isEmpty
  | 2 => v.toNat ≤ s.clk.time
  | _ => !k.seq.pend.contains v.toNat

/-- A blocked WAIT whose condition has come true ends. -/
def State.wakeWait (s : State) (c : PCore) : State :=
  let q := (s.core c).seq
  match q.mode, q.inst with
  | .wait imm v, some x =>
    if s.waitMet c imm v then ((s.modSeq c fun q => { q with mode := .run }).hang (oCore c) 0 0x08 x.slot.val (blockData q 2)).goNext c else s
  | _, _ => s

def State.waitOp (s : State) (c : PCore) (w : BitVec 26) : State :=
  s.issue c 0x3D w fun x s =>
    let imm := BitVec.ofNat 16 (fImm w)
    let cond := fld w 2 0
    let ok := fD w = 0 && cond ≤ 3 && fld w 15 12 = 0 && fld w 7 3 = 0 && (cond ≥ 2 || fA w = 0) && (cond = 1 || fld w 11 8 = 0)
    s.scalar c x (illegalUnless ok) (if cond = 2 then [fA w] else []) fun q =>
      let v := if cond = 3 then BitVec.ofNat 64 (fA w) else q.sr (fA w)
      if s.waitMet c imm v then s.goNext c
      else
        let s := s.modSeq c fun q => { q with mode := .wait imm v }
        s.hang (oCore c) 0 0x07 x.slot.val (blockData q 2)

/-- The time-stamp reaches the value a blocked WAIT TIME names: the clock stands there at least (log entry 6). -/
def State.waitTimeReached (s : State) (c : PCore) : State :=
  if !s.runs then s else
  match (s.core c).seq.mode with
  | .wait imm v => if fld imm 2 0 = 2 then (s.advanceTo v.toNat).wakeWait c else s
  | _ => s

/-! ### Breakpoints (R351) -/

/-- The sequencer is about to issue an instruction whose PC is armed: it issues nothing more and the core drains. -/
def State.breakpointHit (s : State) (c : PCore) : State :=
  let q := (s.core c).seq
  match q.mode, q.inst with
  | .run, some x =>
    if s.runs && !q.brkDrain && !q.brkHalt && q.pc.toNat < x.klen / 4 && s.brkAt x q.pc && q.skipPc != some q.pc then
      s.modSeq c fun q => { q with brkDrain := true, brkCode := (s.ctx x.slot).brk.map (·.code), skipPc := some q.pc }
    else s
  | _, _ => s

/-- The code that a hit is reported with: that of the BRK, else the armed set's, else (a step with no set) a free
value (log entry 16). -/
def State.hitCode (s : State) (q : Seq) (x : Inst) : W16 × State :=
  match q.brkCode, (s.ctx x.slot).brk with
  | some k, _ => (k, s)
  | none, some b => (b.code, s)
  | none, none => let (n, s) := s.takeFree; ((Config.freeValue n).extractLsb' 0 16, s)

/-- A drained core halts (R351): BREAKPOINT and a BREAK record, and the Bell timer holds for a BELL_HOLD set (R353). -/
def State.breakpointHalt (s : State) (c : PCore) : State :=
  let q := (s.core c).seq
  match q.mode, q.inst with
  | .run, some x =>
    if !(s.runs && q.brkDrain && s.quiet c x) then s else
    let (code, s) := s.hitCode q x
    let s := s.modSeq c fun q => { q with brkDrain := false, brkHalt := true, brkCode := none, brkStep := false }
    let hold := match (s.ctx x.slot).brk with | some b => b.hold | none => false
    let s : State := if hold && s.dbg.holdFrom.isNone then { s with dbg := { s.dbg with holdFrom := some s.clk.time } } else s
    let s := s.hang (oCore c) 0 0x05 x.slot.val (seqData q x code.toNat)
    let s := s.report {
      code := 0xC001, slot := x.slot.val, origin := oCore c, core := some c
      detail := BitVec.ofNat 128 (q.pc.toNat ||| (s.icoreOf c).getD 0 <<< 16 ||| code.toNat <<< 32 ||| b2n q.brkStep <<< 48) }
    let s := s.trace 12 x.slot.val (oCore c) (bodyAt
      [(8, leBytes 2 q.pc.toNat), (10, leBytes 2 code.toNat), (12, leBytes 4 x.task), (16, [BitVec.ofNat 8 (b2n q.brkStep)])])
    if s.trc.src = 2 && s.trc.val.toNat % 65536 = code.toNat then s.triggerTrace else s
  | _, _ => s

/-! ### The commands -/

def execPost (core : PCore) (w : BitVec 26) (s : State) : Host.Outcome State Fault Refusal := s.run fun s => s.post core w
def execDone (core : PCore) (w : BitVec 26) (s : State) : Host.Outcome State Fault Refusal := s.run fun s => s.doneOp core w
def execTake (core : PCore) (w : BitVec 26) (s : State) : Host.Outcome State Fault Refusal := s.run fun s => s.takeOp core w
def execWait (core : PCore) (w : BitVec 26) (s : State) : Host.Outcome State Fault Refusal := s.run fun s => s.waitOp core w
def execKernelEntry (core : PCore) (s : State) : Host.Outcome State Fault Refusal := s.run fun s => s.kernelEntry core
def execFillNotice (core src : PCore) (s : State) : Host.Outcome State Fault Refusal := s.run fun s => s.fillNotice core src
def execWaitTimeReached (core : PCore) (s : State) : Host.Outcome State Fault Refusal := s.run fun s => s.waitTimeReached core
def execBreakpointHit (core : PCore) (s : State) : Host.Outcome State Fault Refusal := s.run fun s => s.breakpointHit core
def execBreakpointHalt (core : PCore) (s : State) : Host.Outcome State Fault Refusal := s.run fun s => s.breakpointHalt core

end Sys2Proof.Machine
end

