-- ==== Sys2Proof/Machine/RunBase.lean ====
section
/-! DEFINITION. Sys2Proof/Machine/RunBase.lean: what the running of every command shares: the translation and presence
checks at its start (R126, R128), its reads, its writes, its draws, its statistics and its counts. -/

namespace Sys2Proof.Machine

/-- A command's effect on the state, and the fault that its unit raises. -/
abbrev Ran := State × Option W16

/-! ### Operands -/

/-- Translation of an operand on the core it lies on (R126). -/
def State.opndEnt (s : State) (c : PCore) (x : Inst) (d : Cmd) (o : Opnd) : Except W16 HEnt :=
  (s.core (s.opndCore c x d o)).translate x.slot (arHandle o.reg) (arOff o.reg * 64) o.extent o.write

/-- The byte ranges of an operand within its handle. -/
def Opnd.ranges (o : Opnd) : List (Nat × Nat) := o.parts.map fun p => (arOff o.reg * 64 + p.1, p.2)

/-- The bytes read through an address register, in the view of the command. -/
def State.rdReg (s : State) (c : PCore) (x : Inst) (d : Cmd) (reg : W64) (n : Nat) : List Byte :=
  match (s.core c).handle x.slot (arHandle reg) with
  | some e => s.readH c x.slot e (arOff reg * 64) n (mView d.m0)
  | none => []

/-- Whether a mask freezes result row r (R169). -/
def State.frozenRow (s : State) (c : PCore) (x : Inst) (d : Cmd) : Nat → Bool :=
  let g := mMaskg d.m0
  if !(d.op = 0x21 || d.op = 0x31) || g = 0 then fun _ => false else
  let bs := s.rdReg c x d d.aB (roundUp (maskBytes g (mM d.m0)) 64)
  fun r => elemAt 1 bs (if g = 1 then r else r / 16) == 0

/-- The first fault of translation over operands, in their order. -/
def State.transFault (s : State) (c : PCore) (x : Inst) (d : Cmd) : List Opnd → Option W16
  | [] => none
  | o :: t => match s.opndEnt c x d o with | .error code => some code | .ok _ => s.transFault c x d t

/-- SLOT_EMPTY and SLOT_BUSY of the operands on the command's own core (Table 6.6). -/
def State.presFault (s : State) (c : PCore) (x : Inst) (d : Cmd) : List Opnd → Option W16
  | [] => none
  | o :: t =>
    match s.opndEnt c x d o with
    | .error _ => s.presFault c x d t
    | .ok e =>
      let l := slotsOf e o.ranges
      if o.write then
        if s.opndCore c x d o = c && !(s.core c).writeOk c e.mem l then some 0x4002 else s.presFault c x d t
      else if !(s.core c).readOk c e.mem l then some 0x4001
      else s.presFault c x d t

/-- The fills of the operands written on the command's own core: partial sums PRIVATE, the rest as M0 says (R222). -/
def State.fillOpnds (s : State) (c : PCore) (x : Inst) (d : Cmd) (l : List Opnd) : State :=
  l.foldl (fun s o =>
    match s.opndEnt c x d o with
    | .error _ => s
    | .ok e =>
      if !o.write || s.opndCore c x d o != c then s else
      let priv := o.psum || e.mem == 2 || mPriv d.m0
      s.modCore c fun k => k.fill c e.mem (slotsOf e o.ranges) priv (if priv then 0 else mFill d.m0)) s

/-- The releases and counts of a command's reads, once they are done (R128, R129, R110). -/
def State.endReads (s : State) (c : PCore) (x : Inst) (d : Cmd) (l : List Opnd) : State :=
  l.foldl (fun s o =>
    if o.write then s else
    match s.opndEnt c x d o with
    | .error _ => s
    | .ok e =>
      let s := o.ranges.foldl (fun s r => s.countAcc x.slot e.mem false ((s.ctx x.slot).copyBase e false + r.1) r.2) s
      if o.rel then s.dueReleases c e.mem (slotsOf e o.ranges) else s) s

/-! ### Writes -/

/-- Bytes written on the command's own core through a handle, as pieces at byte offsets of its extent. -/
def State.putLocal (s : State) (c : PCore) (x : Inst) (num : Nat) (e : HEnt) (parts : List (Nat × List Byte)) : State :=
  parts.foldl (fun s p => (s.writeH c x.slot e p.1 p.2 (.slice x.slot c num)).countAcc x.slot e.mem true ((s.ctx x.slot).writeAddr c e p.1) p.2.length) s

/-- The ranges that a result writes through a handle of its own core, for the scoreboard (R118). -/
def State.relRanges (s : State) (c : PCore) (x : Inst) : RelKind → List Range
  | .write dst h parts _ _ => if dst = c then parts.flatMap fun p => s.rangesOf c x.slot h p.1 p.2.length else []
  | _ => []

/-- A result joins the release buffer (R133). -/
def State.toBuffer (s : State) (c : PCore) (x : Inst) (d : Cmd) (bytes : Nat) (k : RelKind) : State :=
  match d.seq with
  | none => s
  | some q => s.modCore c fun y => { y with relBuf := y.relBuf ++
      [{ seq := q, slot := x.slot, inst := x, bytes := bytes, kind := k, num := d.num, ranges := s.relRanges c x k }] }

/-- The write of a command through an address register: at once on its own core, or through the release buffer where it
leaves the core (R133). Parts are at offsets from OFFSET. -/
def State.putReg (s : State) (c : PCore) (x : Inst) (d : Cmd) (reg : W64) (parts : List (Nat × List Byte)) : State :=
  let dst := s.destCore c x d
  let parts := parts.map fun p => (arOff reg * 64 + p.1, p.2)
  match (s.core dst).handle x.slot (arHandle reg) with
  | none => s
  | some e =>
    if dst = c && e.mem < 5 then s.putLocal c x d.num e parts
    else s.toBuffer c x d (natSum (parts.map fun p => p.2.length)) (.write dst (arHandle reg) parts (mPriv d.m0) (mFill d.m0))

/-! ### Draws, status, statistics -/

/-- The low word of the draw of an element (R321, R322). -/
def State.drawEl (s : State) (x : Inst) (d : Cmd) (tid idx : Nat) : Nat :=
  let k := s.ctx x.slot
  drawLow k.seed k.id (if k.freeOn then d.time else k.step) tid idx

/-- The draw of the element at a bit offset of a destination handle's extent, where ROUND is SR (R152). -/
def State.srDraw (s : State) (x : Inst) (d : Cmd) (reg : W64) (w bitOff : Nat) : Nat :=
  if mRound d.m0 = 4 then s.drawEl x d ((s.ctx x.slot).tidOf (arHandle reg)) ((arOff reg * 512 + bitOff) / w) else 0

/-- Status bits that an instance's command sets (R154). -/
def State.setArith (s : State) (c : PCore) (inv ovf nanLost : Bool) : State :=
  s.modSeq c fun q => { q with arith := q.arith ||| BitVec.ofNat 3 (b2n inv ||| b2n ovf <<< 1 ||| b2n nanLost <<< 2) }

/-- One block of 32 values joins an instance's statistics (R199). -/
def LayerStat.addBlock (t : LayerStat) (vs : List Num) : LayerStat :=
  let (m, spec, bins) := statBlock vs
  { t with dmax := maxCode t.dmax m, spec := satAdd t.spec spec
           hist := t.hist.zipIdx.map fun h => satAdd h.1 (bins.count h.2) }

/-- The statistics of values written with STAT = 1, given as rows, by an instance with a layer (R199). -/
def State.addStats (s : State) (c : PCore) (x : Inst) (d : Cmd) (rows : List (List Num)) : State :=
  if !mStat d.m0 || x.layer = 0xFF then s else
  s.modSeq c fun q => { q with stat := rows.foldl (fun t r => (chunks 32 r).foldl LayerStat.addBlock t) q.stat }

/-- Busy array cycles of an engine that have been counted and are still to go by. -/
def State.engineAhead (s : State) (c : PCore) : Nat :=
  let y := s.cnt.cyc.get c
  y.engAhead + ((s.core c).counters.get 0 - y.engSeen)

/-- Array cycles of the engine: ENG_BUSY, and ENG8 or ENG16 of the context (R110, Table 16.8). -/
def State.countEngine (s : State) (c : PCore) (i : Slot) (wide : Bool) (n : Nat) : State :=
  ((s.countCore c 0 n).countCtx i (if wide then 1 else 0) n).modCtx i fun k =>
    { k with act := if wide then { k.act with eng16 := k.act.eng16 + n } else { k.act with eng8 := k.act.eng8 + n } }

/-- Array cycles of the vector unit. -/
def State.countVector (s : State) (c : PCore) (i : Slot) (n : Nat) : State :=
  ((s.countCore c 15 n).countCtx i 2 n).modCtx i fun k => { k with act := { k.act with vec := k.act.vec + n } }

/-- Array cycles of the table unit. -/
def State.countTable (s : State) (c : PCore) (i : Slot) (n : Nat) : State :=
  ((s.countCore c 16 n).countCtx i 3 n).modCtx i fun k => { k with act := { k.act with tbl := k.act.tbl + n } }

end Sys2Proof.Machine
end

