-- ==== Sys2Proof/Machine/RunGab.lean ====
section
/-! DEFINITION. Sys2Proof/Machine/RunGab.lean: what GACC, GREAD and GXENC do when they run (R170 to R177, R204 to R206). -/

namespace Sys2Proof.Machine

/-- Element i of a GAB half: a 64-bit integer, little-endian (R120). -/
def gabRead (m : Memory) (i : Nat) : Int := signedN 64 (leNat (m.readBytes (8 * i) 8))
/-- Element i of a GAB half written. -/
def gabWrite (m : Memory) (i : Nat) (v : Int) : Memory := m.writeBytes (8 * i) (leBytes 8 (wrapN 64 v))

/-- The region of a context that holds n elements from one (R173). -/
def Core.regionOf (k : Core) (i : Slot) (first n : Nat) : Option RegSt :=
  k.regions.find? fun r => r.slot == i && decide (r.off ≤ first) && decide (first + n ≤ r.off + r.len)

/-- A region's state changed. -/
def Core.modRegion (k : Core) (r : RegSt) (f : RegSt → RegSt) : Core :=
  { k with regions := k.regions.map fun y => if y.slot == r.slot && y.idx == r.idx then f y else y }

/-- The largest contribution in magnitude, 2^39 − 1 (R173). -/
def gabLimit : Int := 549755813887

/-- A contribution clipped. -/
def gabClip (q : Int) : Int := if q > gabLimit then gabLimit else if q < -gabLimit then -gabLimit else q

/-- round_half_even of a finite value × 2^(−g) (R173). -/
def gabRound (g : Int) (v : Num) : Int :=
  match v with
  | .fin neg m e => let q : Int := (roundMag 0 neg 0 m e g : Nat); if neg then -q else q
  | _ => 0

/-- The contributions of row r of a GACC. -/
def State.gaccRow (s : State) (c : PCore) (x : Inst) (d : Cmd) (r : Nat) : List Num :=
  match (s.core c).handle x.slot (arHandle d.aA) with
  | none => []
  | some e =>
    if mFmtA d.m0 = 0 then
      let bytes := s.readH c x.slot e (arOff d.aA * 64 + 2048 * r) 2048 (mView d.m0)
      (List.range 128).map fun j => (PEnt.ofBytes (bytes.drop (16 * j))).num
    else
      let st := if mAs d.m1 = 0 then 512 else mAs d.m1
      (unpack 32 (s.readH c x.slot e (arOff d.aA * 64 + r * st) 512 (mView d.m0)) 128).map (decodeNum 8)

/-- The rows of a GACC that its mask does not freeze: the first delta element of each, and its contributions. -/
def State.gaccRows (s : State) (c : PCore) (x : Inst) (d : Cmd) (first : Nat) : List (Nat × List Num) :=
  let frozen := s.frozenRow c x d
  let st := if mDs d.m1 = 0 then 128 else mDs d.m1 / 8
  ((List.range (mM d.m0)).filter fun r => !frozen r).map fun r => (first + r * st, s.gaccRow c x d r)

/-- The delta elements from the first to the last target of a GACC. -/
def gaccSpan (d : Cmd) : Nat := (mM d.m0 - 1) * (if mDs d.m1 = 0 then 128 else mDs d.m1 / 8) + 128

/-- The checks of R173 on a target core, before any element is written. -/
def Core.gaccFault (k : Core) (x : Inst) (first n : Nat) : Except W16 RegSt :=
  match k.regionOf x.slot first n with
  | none => .error 0x4021
  | some r =>
    if x.atomic ≠ r.flow then .error 0x4020
    else if r.retired then .error 0x4024
    else if r.count = 2 ^ 23 then .error 0x4023
    else .ok r

/-- The additions of a GACC on its target core; GAB_CLIPPED is reported once per region and slice (R173). -/
def State.gaccApply (s : State) (c : PCore) (x : Inst) (first n : Nat) (adds : List (Nat × List Int)) : Ran :=
  match (s.core c).gaccFault x first n with
  | .error code => (s, some code)
  | .ok r =>
    let clips := adds.any fun a => a.2.any fun q => gabClip q != q
    let s := s.modCore c fun k =>
      let k := k.modRegion r fun y => { y with count := y.count + 1, clipped := y.clipped || clips }
      { k with delta := adds.foldl (fun m a => (a.2.zipIdx).foldl (fun m q =>
          gabWrite m (a.1 + q.2) (gabRead m (a.1 + q.2) + gabClip q.1)) m) k.delta }
    let s := s.countScr x.slot (16 * natSum (adds.map fun a => a.2.length))
    if clips && !r.clipped then
      (s.report { code := 0x4025, slot := x.slot.val, origin := oCore c, core := some c
                  detail := Config.detailPack 0x4025 [r.idx] }, none)
    else (s, none)

/-- |v| of every contribution joins WMAX of the issuing instance's layer (R199). -/
def State.addWmax (s : State) (c : PCore) (x : Inst) (vs : List Num) : State :=
  if x.layer = 0xFF then s else
  s.modSeq c fun q => { q with stat := { q.stat with wmax := vs.foldl (fun m v => maxCode m (BitVec.ofNat 32 (f32Code (rne32 v.abs)))) q.stat.wmax } }

/-- GACC (R173, R176): at once on its own core, through the release buffer to another. -/
def State.runGacc (s : State) (c : PCore) (x : Inst) (d : Cmd) : Ran :=
  let dst := s.destCore c x d
  match (s.core dst).handle x.slot (arHandle d.aD) with
  | none => (s, some 0x4003)
  | some e =>
    let first := e.base * 8 + arOff d.aD * 8
    match (s.core dst).gaccFault x first (gaccSpan d) with
    | .error code => (s, some code)
    | .ok r =>
      let rows := s.gaccRows c x d first
      let vs := rows.flatMap (·.2)
      if vs.any fun v => !v.isFin then (s, some 0x4022) else
      let adds := rows.map fun w => (w.1, w.2.map (gabRound r.g))
      let s := s.addWmax c x vs
      if dst = c then s.gaccApply c x first (gaccSpan d) adds
      else (s.toBuffer c x d (8 * vs.length) (.gacc dst first (gaccSpan d) adds), none)

/-- The delta range of GREAD and GXENC: its first element and its region. -/
def State.gabRange (s : State) (c : PCore) (x : Inst) (d : Cmd) (n : Nat) : Except W16 (Nat × RegSt) :=
  match (s.core c).handle x.slot (arHandle d.aA) with
  | none => .error 0x4003
  | some e =>
    let first := e.base * 8 + arOff d.aA * 8
    match (s.core c).regionOf x.slot first n with
    | none => .error 0x4021
    | some r => .ok (first, r)

/-- delta = −base, but 2^63 − 1 where the base is −2^63 (R175). -/
def retireDelta (b : Int) : Int := if b = -9223372036854775808 then 9223372036854775807 else -b

/-- GREAD (R175): beside its delta range it reads the base, and with RETIRE writes the delta (R110). -/
def State.runGread (s : State) (c : PCore) (x : Inst) (d : Cmd) : Ran :=
  let n := arLen d.aA * 8
  let retire := d.fn = 1
  match s.gabRange c x d n with
  | .error code => (s, some code)
  | .ok (first, r) =>
    if retire && x.atomic ≠ r.flow then (s, some 0x4020) else
    let k := s.core c
    let sums := (List.range n).map fun j => gabRead k.base (first + j) + gabRead k.delta (first + j)
    let ws := sums.map fun v => writeOut 8 0 false 0 (Num.ofInt v r.g)
    let s := s.putReg c x d d.aD [(0, padUnits (pack 32 (ws.map (·.code))))]
    let s := (s.setArith c false (ws.any (·.ovf)) false).countScr x.slot ((if retire then 16 else 8) * n)
    if !retire then (s, none) else
    (s.modCore c fun k =>
      let k := k.modRegion r fun y => { y with retired := true }
      { k with delta := (List.range n).foldl (fun m j => gabWrite m (first + j) (retireDelta (gabRead k.base (first + j)))) k.delta }, none)

/-- S of a block of GXENC: the least S from max(G, GX) on with 2 m < 255 × 2^(S − G) (R204). -/
def gxScale (g : Int) (m : Nat) : Nat → Int → Int
  | 0, S => S
  | f + 1, S => if 2 * m < 255 * 2 ^ (S - g).toNat then S else gxScale g m f (S + 1)

/-- round_half_even of an integer ÷ 2^k. -/
def rneShift (v : Int) (k : Nat) : Int := gabRound k (Num.ofInt v)

/-- GXENC (R204): beside its delta range it reads the base, and writes the delta (R110). -/
def State.runGxenc (s : State) (c : PCore) (x : Inst) (d : Cmd) : Ran :=
  let n := arLen d.aA * 8
  if arOff d.aA * 8 % 32 ≠ 0 || n % 32 ≠ 0 then (s, some 0xB005) else
  match s.gabRange c x d n with
  | .error code => (s, some code)
  | .ok (first, r) =>
    if x.atomic ≠ r.flow then (s, some 0x4020)
    else if r.retired then (s, some 0x4024)
    else
      let gx := signedN 13 (fld d.m1 12 0)
      let k := s.core c
      let t (j : Nat) : Int := gabRead k.base (first + j) + gabRead k.delta (first + j)
      let blocks := (List.range (n / 32)).map fun b =>
        let vs := (List.range 32).map fun j => t (32 * b + j)
        let S := gxScale r.g (vs.foldl (fun m v => max m v.natAbs) 0) 80 (max r.g gx)
        (S, vs.map fun v => rneShift v (S - r.g).toNat)
      if blocks.any fun b => b.1 - gx > 48 then (s, some 0xB006) else
      let es := blocks.flatMap fun b => b.2.map fun e => e * (2 ^ (b.1 - r.g).toNat : Nat)
      let s := s.modCore c fun k =>
        { k with delta := es.zipIdx.foldl (fun m e => gabWrite m (first + e.2) (gabRead m (first + e.2) - e.1)) k.delta }
      let bytes := (blocks.flatMap fun b => b.2.map fun e => BitVec.ofNat 8 (wrapN 8 e)) ++ blocks.flatMap fun b => leBytes 2 (wrapN 16 b.1)
      ((s.countScr x.slot (16 * n)).putReg c x d d.aD [(0, padUnits bytes)], none)

end Sys2Proof.Machine
end

