-- ==== Sys2Proof/Machine/Inbox.lean ====
section
/-! DEFINITION. Sys2Proof/Machine/Inbox.lean: the receiving side of messages (R246 to R250, R253, R256 to R260): ring
inboxes, receive windows and combining inboxes, and the grants that they give. -/

namespace Sys2Proof.Machine

/-! ### Grants -/

/-- A grant for a request is sent (R248, R257, R260). -/
def State.sendGrant (s : State) (c : PCore) (h : MsgHdr) (offset : Nat) (dgen : BitVec 12) : State :=
  let cg := match slot? h.dstSlot with | some i => (s.ctx i).ctxGen | none => 0
  let g : MsgHdr := { h.answer kGrant 0 (s.senderSlot h) s.mgmt.chip with ctxGen := cg, dgen := dgen, offset := offset, units := h.units }
  let src := match s.pitchOf c with | some p => p.val | none => 0
  let s := s.modCore c fun k => { k with given := k.given ++ [(h, offset, dgen)] }
  s.sendItem src { hdr := g, slot := s.ownerSlot h }

/-! ### Ring inboxes -/

/-- The header words of a ring's unit u: header word, then the message header (Table 11.2, R239). -/
def State.ringHead (s : State) (c : PCore) (b : Inbox) (u : Nat) : W64 :=
  BitVec.ofNat 64 (leNat ((s.core c).act.readBytes (b.base + 64 * u) 8))

/-- A header word written in a ring. -/
def State.putRingHead (s : State) (c : PCore) (b : Inbox) (u : Nat) (written : Bool) (kind units bytes : Nat) : State :=
  s.modCore c fun k => { k with act := k.act.writeBytes (b.base + 64 * u) (itemHeader written kind b.epoch.toNat units bytes) }

/-- A ring inbox of a context changed. -/
def State.modInbox (s : State) (c : PCore) (i : Slot) (n : Nat) (f : Inbox → Inbox) : State :=
  s.modCore c fun k => { k with inboxes := k.inboxes.map fun b => if b.slot == i && b.num == n then f b else b }

/-- A ring inbox of a context. -/
def Core.inbox (k : Core) (i : Slot) (n : Nat) : Option Inbox := k.inboxes.find? fun b => b.slot == i && b.num == n

/-- The head of an inbox's waiting requests is served (R248); the fuel is their number. -/
def State.serveRing (s : State) (c : PCore) (i : Slot) (n : Nat) : Nat → State
  | 0 => s
  | f + 1 =>
    match (s.core c).inbox i n with
    | none => s
    | some b =>
      match b.waitq with
      | [] => s
      | h :: t =>
        let need := h.units + 1
        if need > b.cap then
          ((s.modInbox c i n fun b => { b with waitq := t }).nack c h 4).serveRing c i n f
        else
          let room := b.cap - b.tail
          let pad := if room < need then room else 0
          if b.occ + pad + need > b.cap then s else
          let s := if pad > 0 then s.putRingHead c b b.tail true 1 pad 0 else s
          let at' := if pad > 0 then 0 else b.tail
          let s := s.putRingHead c b at' false 0 need 0
          let s := s.modInbox c i n fun b => { b with waitq := t, occ := b.occ + pad + need, tail := (at' + need) % b.cap }
          (s.sendGrant c h at' b.gen).serveRing c i n f

/-- Every waiting request of an inbox is tried. -/
def State.serve (s : State) (c : PCore) (i : Slot) (n : Nat) : State :=
  match (s.core c).inbox i n with
  | some b => s.serveRing c i n b.waitq.length
  | none => s

/-- The first data header of a ring from unit u, past written padding: its unit and the units passed to reach it. -/
def State.ringScan (s : State) (c : PCore) (b : Inbox) : Nat → Nat → Nat → Option (Nat × Nat)
  | 0, _, _ => none
  | f + 1, u, passed =>
    let h := s.ringHead c b u
    if passed ≥ b.occ || !bit h 63 then none
    else if fld h 62 60 = 1 then
      if fld h 47 32 = 0 then none else s.ringScan c b f ((u + fld h 47 32) % b.cap) (passed + fld h 47 32)
    else some (u, passed)

/-- The item that a RECV would take of a ring inbox (R250). -/
def State.ringFirst (s : State) (c : PCore) (b : Inbox) : Option (Nat × Nat) :=
  if b.isOpen then s.ringScan c b (b.occ + 1) b.head 0 else none

/-! ### Windows and combining inboxes -/

/-- Window or combining inbox n changed. -/
def State.modWin (s : State) (c : PCore) (n : Nat) (f : Win → Win) : State :=
  s.modCore c fun k => { k with wins := k.wins.putN n (f (k.win n)) }

/-- Whether an open window or combining inbox grants a request at once (R257, R260): the request of the context's own
slice, for a target of its kind, and credits left. -/
def Win.grants (w : Win) (i : Slot) (h : MsgHdr) : Bool :=
  w.isOpen && (match w.owner with | some o => o.slot == i | none => false) && w.combining != h.window &&
  (!w.combining || decide (w.granted < w.expect))

/-- A request to a window or combining inbox: granted, or held in the request queue (R253, R257, R260). -/
def State.winRequest (s : State) (c : PCore) (i : Slot) (h : MsgHdr) : State :=
  let w := (s.core c).win h.target
  if w.grants i h then
    let s := s.modWin c h.target fun w => { w with granted := w.granted + 1 }
    s.sendGrant c h (if w.combining then 0 else h.offset) w.gen
  else s.modCore c fun k => { k with reqq := k.reqq ++ [h] }

/-- The request queue of a core held n requests: where fewer are left, its consumer has taken one (R242). -/
def State.reqTaken (s : State) (c : PCore) (n : Nat) : State := if (s.core c).reqq.length < n then s.taken 3 c.val else s

/-- Requests held for target n that can now be granted are granted, in arrival order (R253, R255). -/
def State.grantHeld (s : State) (c : PCore) (i : Slot) (n : Nat) (igen : BitVec 12) : State :=
  let take := (s.core c).reqq
  let s := s.modCore c fun k => { k with reqq := [] }
  let s := take.foldl (fun s h =>
    if h.target = n && h.dstSlot = i.val && h.igen = igen then s.winRequest c i h
    else s.modCore c fun k => { k with reqq := k.reqq ++ [h] }) s
  s.reqTaken c take.length

/-- Bytes that a contribution needs for n elements (R259). -/
def combineNeed (cfmt n : Nat) : Nat :=
  match cfmt with | 0 => 8 * n | 2 => n + n / 16 | _ => 4 * n

/-- Elements of an accumulator. -/
def Win.elems (w : Win) : Nat := if w.cfmt = 3 then w.len / 4 else w.len / 8

/-- The integer that element j of a contribution adds; none is COMBINE_RANGE (R259). -/
def combineInt (w : Win) (bs : List Byte) (j : Nat) : Option Int :=
  match w.cfmt with
  | 0 => some (signedN 64 (elemAt 64 bs j))
  | 1 => some (signedN 32 (elemAt 32 bs j))
  | _ =>
    let S := signedN 16 (leNat ((bs.drop (w.elems + 2 * (j / 32))).take 2))
    if S < w.gx || S - w.gx > 48 then none
    else some (signedN 8 (elemAt 8 bs j) * (2 ^ (S - w.gx).toNat : Nat))

/-- Whether an integer fits 64 bits. -/
def fits64 (v : Int) : Bool := decide (-9223372036854775808 ≤ v) && decide (v ≤ 9223372036854775807)

/-- A contribution added to an accumulator's bytes (R259); none is COMBINE_RANGE. -/
def combineAdd (w : Win) (acc bs : List Byte) : Option (List Byte) :=
  let n := w.elems
  if w.cfmt = 3 then
    some (pack 32 ((List.range n).map fun j => f32Code (rne32 ((decodeNum 8 (elemAt 32 acc j)).add (decodeNum 8 (elemAt 32 bs j))))))
  else
    let sums := (List.range n).map fun j => (combineInt w bs j).map fun v => signedN 64 (elemAt 64 acc j) + v
    if sums.all fun v => match v with | some k => fits64 k | none => false then
      some (sums.flatMap fun v => leBytes 8 (wrapN 64 (v.getD 0)))
    else none

/-- A contribution reaches an open combining inbox (R259, R260), which reads and writes its accumulator (R110). -/
def State.contribute (s : State) (c : PCore) (i : Slot) (h : MsgHdr) (data : List Byte) : State :=
  let w := (s.core c).win h.target
  if h.tag ≠ w.tag || data.length < combineNeed w.cfmt w.elems then s.fault c i 0x6008 else
  match combineAdd w ((s.core c).act.readBytes w.lo w.len) data with
  | none => s.fault c i 0x6009
  | some acc =>
    let s := (s.countScr i (2 * w.len)).modCore c fun k => { k with act := k.act.writeBytes w.lo acc }
    s.modWin c h.target fun w =>
      let added := w.added + 1
      { w with added := added, ready := if w.perContribution then w.ready + 1 else if added = w.expect then 1 else w.ready }

/-- Whether inbox n is ready for a RECV of a context (R250). -/
def State.inboxReady (s : State) (c : PCore) (i : Slot) (n : Nat) : Bool :=
  let w := (s.core c).win n
  (w.isOpen && w.combining && decide (w.ready > 0) && match w.owner with | some o => o.slot == i | none => false) ||
  match (s.core c).inbox i n with | some b => (s.ringFirst c b).isSome | none => false

end Sys2Proof.Machine
end

