-- ==== Sys2Proof/Machine/RunStash.lean ====
section
/-! DEFINITION. Sys2Proof/Machine/RunStash.lean: what STASH, SLOAD and SQUERY do when they run (R184 to R197). -/

namespace Sys2Proof.Machine

/-! ### Encodings (R195 to R197) -/

/-- The ENC that is recorded: raw in the first two cases of R195. -/
def stashEnc (enc src : Nat) : Nat :=
  if enc = 2 && fmtBits src < 8 then 0 else if enc = 3 && fmtBits src ≤ 8 then 0 else enc

/-- The predicate of a mask-only item on one element (Table 9.2). -/
def stashPred (pred : Nat) (v : Num) : Bool :=
  match v with
  | .nan => false
  | _ => Num.lt .zero v && (pred == 0 || v.lt (Num.ofInt 6))

/-- A maximal run of zero codes at the head of a list: its length, and the rest. -/
def zeroRun : List Nat → Nat × List Nat
  | 0 :: t => let (n, r) := zeroRun t; (n + 1, r)
  | l => (0, l)
/-- The maximal literals at the head of a list, and the rest. -/
def litRun : List Nat → List Nat × List Nat
  | [] => ([], [])
  | 0 :: t => ([], 0 :: t)
  | c :: t => let (l, r) := litRun t; (c :: l, r)

/-- Words of runs of n zeros, at most 32,768 each. -/
def zeroWords (n : Nat) : List Byte :=
  (List.range (ceilDiv n 32768)).flatMap fun i => leBytes 2 (0x8000 + (min 32768 (n - 32768 * i) - 1))
/-- Literal groups of at most 32,768 codes. -/
def litWords (w : Nat) (l : List Nat) : List Byte :=
  (chunks 32768 l).flatMap fun g => leBytes 2 (g.length - 1) ++ pack w g

/-- The zero-run encoding of codes of w bits (R196). -/
def zeroEncode (w : Nat) : Nat → List Nat → List Byte
  | 0, _ => []
  | _, [] => []
  | f + 1, 0 :: t =>
    let (n, r) := zeroRun (0 :: t)
    zeroWords n ++ zeroEncode w f r
  | f + 1, c :: t =>
    let (l, r) := litRun (c :: t)
    litWords w l ++ zeroEncode w f r

/-- n codes of w bits from a zero-run encoding. -/
def zeroDecode (w : Nat) : Nat → List Byte → Nat → List Nat
  | 0, _, _ => []
  | f + 1, bs, n =>
    if n = 0 then [] else
    let h := (le16 bs 0).toNat
    let k := min n (h % 32768 + 1)
    if h ≥ 32768 then List.replicate k 0 ++ zeroDecode w f (bs.drop 2) (n - k)
    else unpack w (bs.drop 2) k ++ zeroDecode w f (bs.drop (2 + packedLen w (h % 32768 + 1))) (n - k)

/-- The scale byte of a block of block FP8 (R197). -/
def stashScale (vs : List Num) : Nat :=
  if vs.any fun v => !v.isFin then 255 else
  let tops := vs.filterMap fun v => match v with | .fin _ m e => if m = 0 then none else some (lead m e) | _ => none
  match tops with
  | [] => 127
  | x :: t => (max 0 (min 254 (t.foldl max x + 120))).toNat

/-- Block FP8 of a list of values: codes of all blocks, then their scale bytes. -/
def fp8Encode (vs : List Num) : List Byte :=
  let bl := chunks 32 (vs ++ List.replicate (roundUp vs.length 32 - vs.length) .zero)
  let one (b : List Num) : Nat × List Byte :=
    let x := stashScale b
    (x, b.map fun v => if x = 255 then 0 else BitVec.ofNat 8 (writeOut 0 0 true 0 (v.scale (127 - (x : Int)))).code)
  let es := bl.map one
  es.flatMap (·.2) ++ es.map fun e => BitVec.ofNat 8 e.1

/-- The binary32 codes that SLOAD restores from block FP8. -/
def fp8Decode (bs : List Byte) (n : Nat) : List Nat :=
  let m := roundUp n 32
  (List.range n).map fun i =>
    let x := ((bs[m + i / 32]?).getD 0).toNat
    if x = 255 then 0x7FC00000 else f32Code ((decodeNum 0 ((bs[i]?).getD 0).toNat).scale ((x : Int) - 127))

/-- The item that STASH stores: the ENC recorded and its bytes. -/
def stashItem (enc pred src n : Nat) (bytes : List Byte) : Nat × List Byte :=
  if src = 0xF then (1, bytes.take (ceilDiv n 8)) else
  let w := fmtBits src
  let raw := bytes.take (packedLen w n)
  let codes := unpack w bytes n
  match stashEnc enc src with
  | 1 => (1, pack 1 (codes.map fun c => b2n (stashPred pred (decodeNum src c))))
  | 2 => let z := zeroEncode w (n + 1) codes
         if z.length > raw.length then (0, raw) else (2, z)
  | 3 => (3, fp8Encode (codes.map (toF32 src)))
  | _ => (0, raw)

/-- What SLOAD writes of an item (R194). -/
def stashDecode (enc src n : Nat) (bytes : List Byte) : List Byte :=
  match enc with
  | 1 => bytes.take (ceilDiv n 8)
  | 2 => pack (fmtBits src) (zeroDecode (fmtBits src) (2 * n + 2) bytes n)
  | 3 => pack 32 (fp8Decode bytes n)
  | _ => bytes.take (packedLen (fmtBits src) n)

/-- The bytes of a decoded item. -/
def decodedLen (enc src n : Nat) : Nat :=
  match enc with
  | 1 => ceilDiv n 8
  | 3 => 4 * n
  | _ => packedLen (fmtBits src) n

/-! ### The directory (R191, R193) -/

/-- SPILL_ADDR of the slice in service. -/
def Ctx.spillAddr (c : Ctx) : Nat := match c.desc with | some d => d.spill | none => 0
/-- The length D of the directory. -/
def Ctx.dirLen (c : Ctx) : Nat :=
  match c.image with | some im => roundUp (64 * im.layers * im.cores) 4096 | none => 0
/-- SPILL_LIMIT in bytes. -/
def Ctx.spillBytes (c : Ctx) : Nat := match c.image with | some im => im.spillLimit * 1024 | none => 0

/-- The address of the directory entry of an instance's item (R191). -/
def State.dirAddr (s : State) (c : PCore) (x : Inst) (item : Nat) : Nat :=
  let k := s.ctx x.slot
  let layers := match k.image with | some im => im.layers | none => 0
  k.spillAddr + 16 * (4 * (layers * (s.icoreOf c).getD 0 + x.layer) + item)

/-- A directory entry (Table 9.2). -/
structure DirEnt where
  gen : Nat := 0
  live : Bool := false
  tier : Nat := 0
  enc : Nat := 0
  src : Nat := 0
  pred : Nat := 0
  elems : Nat := 0
  length : Nat := 0
  loc : Nat := 0
deriving DecidableEq, Repr

def DirEnt.bytes (e : DirEnt) : List Byte :=
  leBytes 16 (e.gen <<< 116 ||| b2n e.live <<< 115 ||| e.tier <<< 113 ||| e.enc <<< 110 ||| e.src <<< 106 ||| e.pred <<< 104 |||
    (e.elems % 2 ^ 32) <<< 64 ||| (e.length % 2 ^ 32) <<< 32 ||| e.loc % 2 ^ 32)

def DirEnt.ofBytes (bs : List Byte) : DirEnt :=
  let v := leNat (bs.take 16)
  { gen := fieldN v 127 116, live := fieldN v 115 115 == 1, tier := fieldN v 114 113, enc := fieldN v 112 110, src := fieldN v 109 106
    pred := fieldN v 105 104, elems := fieldN v 95 64, length := fieldN v 63 32, loc := fieldN v 31 0 }

/-- Reserved bits or codes of an entry (Table 9.2). -/
def dirReserved (bs : List Byte) : Bool :=
  let e := DirEnt.ofBytes bs
  fieldN (leNat (bs.take 16)) 103 96 ≠ 0 || e.tier = 3 || e.enc ≥ 4 || e.pred = 3 || (e.src ≥ 10 && e.src ≠ 0xF)

/-- The entry of an item, if it is valid: of the slice in service (R193). A malformed one is not (R6; log entry 78). -/
def State.dirEntry (s : State) (c : PCore) (x : Inst) (item : Nat) : Option DirEnt :=
  let bs := s.devRead (s.dirAddr c x item) 16
  let e := DirEnt.ofBytes bs
  if e.gen = x.gen.toNat && !dirReserved bs then some e else none

/-- A directory entry, and a spilled item, to leave through a memory port in sequence (R133, R192). -/
def State.putDir (s : State) (c : PCore) (x : Inst) (d : Cmd) (e : DirEnt) (spill : Option (Nat × List Byte)) : State :=
  s.toBuffer c x d (16 + match spill with | some p => p.2.length | none => 0) (.stash (s.dirAddr c x (d.fn % 4)) e.bytes spill)

/-! ### Commands -/

/-- The fault of a run-time operand on the command's own core: SEQ_OPERAND, translation, presence. -/
def State.lateFault (s : State) (c : PCore) (x : Inst) (d : Cmd) (o : Opnd) : Option W16 :=
  if o.extent > arLen o.reg * 64 then some 0x4033
  else match s.transFault c x d [o] with
    | some code => some code
    | none => s.presFault c x d [o]

/-- The high mark in bytes (R188). -/
def State.highMark (s : State) (i : Slot) : Nat :=
  (s.ctx i).spillBytes * (if s.cfg.stash = 0 then 16 else s.cfg.stash) / 16

/-- An item stored in the arena: PUBLISH, n = 1 (R185). -/
def State.stashArena (s : State) (c : PCore) (x : Inst) (d : Cmd) (e : HEnt) (cur : Nat) (ent : DirEnt) (bytes : List Byte) : Ran :=
  let sl := slotsOf e [(cur, bytes.length)]
  if !(s.core c).writeOk c e.mem sl then (s, some 0x4002) else
  let s := s.modCore c fun k => k.fill c e.mem sl false 1
  let s := s.putLocal c x d.num e [(cur, bytes)]
  let s := s.modCtx x.slot fun k => { k with arena := k.arena.insert c.val (cur + roundUp bytes.length 4096, (k.arenaOf c).2.1 + 1, arHandle d.aD) }
  (s.putDir c x d { ent with live := true, tier := 0, loc := cur / 64 } none, none)

/-- An item given to the spill queue (R192): its place in the spill area is taken now, its bytes follow in sequence. -/
def State.stashSpill (s : State) (c : PCore) (x : Inst) (d : Cmd) (ent : DirEnt) (bytes : List Byte) : Ran :=
  let k := s.ctx x.slot
  let cur := k.spillCursor
  let next := cur + roundUp bytes.length 64
  let high := s.highMark x.slot
  let s := s.modCtx x.slot fun k => { k with spillCursor := next, spillLive := k.spillLive + 1, spillSaid := k.spillSaid || decide (next ≥ high) }
  let s := if next ≥ high && !k.spillSaid then s.noteCtx 0xB010 x.slot next else s
  (s.putDir c x d { ent with live := true, tier := 1, loc := cur / 64 } (some (k.spillAddr + k.dirLen + cur, bytes)), none)

/-- An item given tier recompute (R185, R187). -/
def State.stashRecompute (s : State) (c : PCore) (x : Inst) (d : Cmd) (ent : DirEnt) : Ran :=
  let said := (s.ctx x.slot).recompSaid
  let s := (s.countCtx x.slot 18 1).modCtx x.slot fun k => { k with recompSaid := true }
  let s := if said then s else s.noteCtx 0xB011 x.slot
  (s.putDir c x d { ent with live := false, tier := 2, loc := 0 } none, none)

/-- STASH (R184, R185). Of several faults at once STASH_NO_AREA comes first, then STASH_KEY, then the fault of the arena's handle: the
rules give no order (DESIGN CHOICE, log entry 84). -/
def State.runStash (s : State) (c : PCore) (x : Inst) (d : Cmd) : Ran :=
  let k := s.ctx x.slot
  let item := d.fn % 4
  let src := mFmtA d.m0
  let n := mN d.m1
  let live := match s.dirEntry c x item with | some e => e.live | none => false
  if k.spillAddr = 0 then (s, some 0xB004)
  else if x.layer = 0xFF || live then (s, some 0xB003)
  else
    match (s.core c).translate x.slot (arHandle d.aD) 0 0 true with
    | .error code => (s, some code)
    | .ok e =>
      let (enc, bytes) := stashItem (fieldN d.fn 4 2) (fieldN d.fn 6 5) src n (s.rdReg c x d d.aA (roundUp (if src = 0xF then ceilDiv n 8 else packedLen (fmtBits src) n) 64))
      let ent : DirEnt := { gen := x.gen.toNat, enc := enc, src := src, pred := if enc = 1 then fieldN d.fn 6 5 else 0, elems := n, length := bytes.length }
      let cur := (k.arenaOf c).1
      let high := s.highMark x.slot
      if cur + roundUp bytes.length 4096 ≤ e.size * 256 then s.stashArena c x d e cur ent bytes
      else if x.recomp && k.spillCursor ≥ high then s.stashRecompute c x d ent
      else if k.spillCursor + roundUp bytes.length 64 ≤ k.spillBytes then s.stashSpill c x d ent bytes
      else if x.recomp then s.stashRecompute c x d ent
      else (s, some 0xB001)

/-- One live item of the arena less; its cursor returns to zero with the last (R186). -/
def Ctx.arenaLess (k : Ctx) (c : PCore) : Ctx :=
  let (cur, n, h) := k.arenaOf c
  { k with arena := k.arena.insert c.val (if n ≤ 1 then 0 else cur, n - 1, h) }
/-- One live item of the spill area less. -/
def Ctx.spillLess (k : Ctx) : Ctx :=
  { k with spillLive := k.spillLive - 1, spillCursor := if k.spillLive ≤ 1 then 0 else k.spillCursor }

/-- The bytes of a stored item, and the handle's slots that they lie in for an arena item. -/
def State.stashBytes (s : State) (c : PCore) (x : Inst) (e : DirEnt) : Except W16 (List Byte × List Nat) :=
  if e.tier = 1 then
    .ok (s.devRead ((s.ctx x.slot).spillAddr + (s.ctx x.slot).dirLen + 64 * e.loc) e.length, [])
  else
    match (s.core c).translate x.slot ((s.ctx x.slot).arenaOf c).2.2 (64 * e.loc) e.length false with
    | .error code => .error code
    | .ok h =>
      let sl := slotsOf h [(64 * e.loc, e.length)]
      if !(s.core c).readOk c h.mem sl then .error 0x4001
      else .ok (s.readH c x.slot h (64 * e.loc) e.length false, sl)

/-- SLOAD (R194). -/
def State.runSload (s : State) (c : PCore) (x : Inst) (d : Cmd) : Ran :=
  let item := d.fn % 4
  if (s.ctx x.slot).spillAddr = 0 then (s, some 0xB004) else
  match s.dirEntry c x item with
  | none => (s, some 0xB002)
  | some e =>
    if !e.live || e.tier = 2 || x.layer = 0xFF then (s, some 0xB002) else
    let n := decodedLen e.enc e.src e.elems
    let o : Opnd := { reg := d.aD, write := true, extent := roundUp n 64, parts := (runParts n).2 }
    match s.lateFault c x d o, s.stashBytes c x e with
    | some code, _ => (s, some code)
    | none, .error code => (s, some code)
    | none, .ok (bytes, sl) =>
      let s := s.fillOpnds c x d [o]
      let s := s.putReg c x d d.aD [(0, padUnits (stashDecode e.enc e.src e.elems bytes))]
      let at_ := (s.ctx x.slot).spillAddr + (s.ctx x.slot).dirLen + 64 * e.loc
      let s := if e.tier = 1 then (s.readReq false at_ e.length (.ctx x.slot)).countRd x.slot at_ e.length else (s.countScr x.slot e.length).dueReleases c 1 sl
      let s := s.modCtx x.slot fun k => if e.tier = 1 then k.spillLess else k.arenaLess c
      (s.putDir c x d { e with live := false } none, none)

/-- A command's result in s(2m + 1). -/
def State.setResult (s : State) (c : PCore) (d : Cmd) (v : W64) : State := s.modSeq c fun q => q.setS d.res v

/-- SQUERY (R194): 0 arena, 1 spill, 2 recompute, 3 absent. -/
def State.runSquery (s : State) (c : PCore) (x : Inst) (d : Cmd) : Ran :=
  if (s.ctx x.slot).spillAddr = 0 then (s, some 0xB004) else
  let v := if x.layer = 0xFF then 3 else match s.dirEntry c x (d.fn % 4) with | some e => e.tier | none => 3
  (s.setResult c d (BitVec.ofNat 64 v), none)

/-- A stash command waits for the directory writes of the core's earlier ones (R118): the order of data within one core is
always the issue order. -/
def Core.dirReady (k : Core) : Bool := !k.relBuf.any fun r => match r.kind with | .stash .. => true | _ => false

/-- SLOAD waits until every write of a spilled item has drained and been acknowledged (R192). -/
def State.sloadReady (s : State) (x : Inst) : Bool := (s.ctx x.slot).spillq.isEmpty && !s.writing fun o => match o with | .spill i _ => i == x.slot | _ => false

end Sys2Proof.Machine
end

