-- ==== Sys2Proof/Machine/RunMsg.lean ====
section
/-! DEFINITION. Sys2Proof/Machine/RunMsg.lean: what SEND, RWRITE, RECV, WOPEN and WCLOSE do when they run (R231, R245 to
R260). -/

namespace Sys2Proof.Machine

/-! ### SEND and RWRITE -/

/-- The destination chip of a message command (R245). -/
def State.msgChip (s : State) (d : Cmd) : Nat := if fld d.m0 33 26 = 0xFF then s.mgmt.chip else fld d.m0 33 26

/-- DST_SLOT: the context's own slot on this chip, or the member's slot of its group (R245). -/
def State.msgSlot (s : State) (x : Inst) (chip : Nat) : Nat :=
  if chip = s.mgmt.chip then x.slot.val
  else (((s.ctx x.slot).group.memberPairs.find? fun p => p.1 == chip).map (·.2)).getD 0x7F

/-- The image cores a message command goes to (R245, R251). -/
def msgCores (d : Cmd) : List Nat :=
  if d.op = 0x34 && bit d.m0 34 then maskCores d.m1 else [fld d.m0 25 20]

/-- The REQUEST header of a message command to one image core (R244, R248). -/
def State.msgHdr (s : State) (c : PCore) (x : Inst) (d : Cmd) (dst : Nat) : MsgHdr :=
  let chip := s.msgChip d
  { kind := kRequest, dstChip := chip, dstCore := dst, target := fld d.m0 19 16, window := d.op == 0x36
    dstSlot := s.msgSlot x chip, tag := d.m0.extractLsb' 0 16, srcChip := s.mgmt.chip, srcCore := (s.icoreOf c).getD 0
    ctxId := (s.ctx x.slot).id, igen := x.gen, offset := if d.op = 0x36 then fld d.m1 31 0 else 0, units := arLen d.aA }

/-- Free entries of a grant table, ascending. -/
def Core.freeGrants (k : Core) : List Nat := (List.range 32).filter fun i => match k.grants.at? i with | some none => true | _ => false

/-- The mesh source of a core's items: its pitch (R269). -/
def State.meshSrc (s : State) (c : PCore) : Nat := match s.pitchOf c with | some p => p.val | none => 0

/-- DATA of a message event of Table 16.5. -/
def msgData (h : MsgHdr) : W64 := BitVec.ofNat 64 (fld h.pack 31 0 ||| h.gid <<< 32 ||| h.reason <<< 40)

/-- A command at the head of the move unit's queue takes its grant entries and sends its REQUESTs (R248, R251); it waits
where too few are free. -/
def State.askGrants (s : State) (c : PCore) (x : Inst) (d : Cmd) : Option (State × List Nat) :=
  let cores := msgCores d
  let free := (s.core c).freeGrants
  if free.length < cores.length then none else
  let asks := (cores.zip free).map fun p => ({ s.msgHdr c x d p.1 with gid := p.2 } : MsgHdr)
  some (asks.foldl (fun s h =>
    let e : GrantEnt := { slot := x.slot, igen := x.gen, hdr := h, num := d.num }
    let s := s.modCore c fun k => { k with grants := k.grants.putN h.gid (some e) }
    let s := s.hang (oCore c) 4 0x20 x.slot.val (msgData h)
    s.sendItem (s.meshSrc c) { hdr := h, slot := x.slot.val }) s, asks.map (·.gid))

/-- Every request of a message command has been answered (R248, R251, R254). -/
def Core.answered (k : Core) (d : Cmd) : Bool :=
  d.gids.all fun g => d.nacked.contains g || match k.grants.at? g with | some (some e) => e.granted | _ => false

/-- The payload goes to the release buffer for every destination that granted (R248, R251). -/
def State.runSend (s : State) (c : PCore) (x : Inst) (d : Cmd) : Ran :=
  let bytes := s.rdReg c x d d.aA (arLen d.aA * 64)
  let kind := if d.op = 0x36 then kWrite else kMessage
  let src := s.meshSrc c
  let items : List (Nat × Item) := (d.gids.filter fun g => !d.nacked.contains g).filterMap fun g =>
    match (s.core c).grants.at? g with
    | some (some e) => some (src, { hdr := { e.hdr with kind := kind, units := arLen d.aA }, data := bytes, slot := x.slot.val })
    | _ => none
  (s.toBuffer c x d bytes.length (.mesh items), none)

/-! ### RECV -/

/-- The order in which RECV tries the inboxes (R250). -/
def recvOrder (d : Cmd) : List Nat :=
  let start := if bit d.m0 16 then d.rotFrom else 0
  ((List.range 16).map fun i => (start + i) % 16).filter fun n => bit d.m0 n

/-- The inbox that a RECV takes. -/
def State.recvPick (s : State) (c : PCore) (x : Inst) (d : Cmd) : Option Nat := (recvOrder d).find? (s.inboxReady c x.slot)

/-- RECV's result word (Table 10.13). -/
def recvWord (tag : W16) (n len : Nat) : W64 := BitVec.ofNat 64 (tag.toNat <<< 48 ||| n <<< 44 ||| len % 2 ^ 32)

/-- A payload read from the inbox (R110), copied to aD with fill PRIVATE, and the result word (R250). -/
def State.recvInto (s : State) (c : PCore) (x : Inst) (d : Cmd) (n : Nat) (tag : W16) (bytes : List Byte) : Ran :=
  let o : Opnd := { reg := d.aD, write := true, extent := roundUp bytes.length 64, parts := (runParts bytes.length).2 }
  match s.lateFault c x d o with
  | some code => (s, some code)
  | none =>
    let s := s.countScr x.slot bytes.length
    let d' : Cmd := { d with m0 := setBit 0 57 true }
    let s := s.fillOpnds c x d' [o]
    let s := s.putReg c x d' d.aD [(0, bytes)]
    let s := s.setResult c d (recvWord tag n bytes.length)
    (s.modSeq c fun q => { q with lastRecv := some n }, none)

/-- RECV from ring inbox b: its first item, whose units and passed padding are freed after the copy (R250). -/
def State.recvRing (s : State) (c : PCore) (x : Inst) (d : Cmd) (n : Nat) (b : Inbox) (at' pad : Nat) : Ran :=
  let h := s.ringHead c b at'
  let units := fld h 47 32
  let len := fld h 31 0
  let hdr := MsgHdr.unpack (BitVec.ofNat 256 (leNat ((s.core c).act.readBytes (b.base + 64 * at' + 8) 32)))
  let r := s.recvInto c x d n hdr.tag ((s.core c).act.readBytes (b.base + 64 * at' + 64) len)
  match r.2 with
  | some code => (r.1, some code)
  | none =>
    let s := r.1.modInbox c x.slot n fun b => { b with head := (at' + units) % b.cap, occ := b.occ - pad - units }
    ((s.serve c x.slot n).taken 2 (16 * c.val + n) (some x.slot), none)

/-- RECV from combining inbox n (R260). -/
def State.recvCombining (s : State) (c : PCore) (x : Inst) (d : Cmd) (n : Nat) : Ran :=
  let w := (s.core c).win n
  let r := s.recvInto c x d n w.tag ((s.core c).act.readBytes w.lo w.len)
  match r.2 with
  | some code => (r.1, some code)
  | none =>
    (r.1.modWin c n fun w =>
      let w : Win := { w with ready := w.ready - 1, received := w.received + 1 }
      if !w.perContribution || w.received = w.expect then w.shut else w, none)

/-- RECV (R250). -/
def State.runRecv (s : State) (c : PCore) (x : Inst) (d : Cmd) : Ran :=
  match s.recvPick c x d with
  | none => (s, none)
  | some n =>
    match (s.core c).inbox x.slot n with
    | some b => match s.ringFirst c b with
      | some (at', pad) => s.recvRing c x d n b at' pad
      | none => (s, none)
    | none => s.recvCombining c x d n

/-! ### WOPEN and WCLOSE -/

/-- WOPEN: its range must be EMPTY, and becomes FILLING (R256, R258). -/
def State.runWopen (s : State) (c : PCore) (x : Inst) (d : Cmd) : Ran :=
  let n := d.fn % 16
  let comb := d.fn / 16 = 1
  let len := arLen d.aD * 64
  let off := arOff d.aD * 64
  if ((s.core c).win n).isOpen then (s, some 0x4032) else
  match (s.core c).translate x.slot (arHandle d.aD) off len true with
  | .error code => (s, some code)
  | .ok e =>
    let sl := slotsOf e [(off, len)]
    if sl.any fun k => ((s.core c).presAt e.mem k).state ≠ 0 then (s, some 0x4002) else
    let priv := comb || mPriv d.m0
    let lo := e.base * 64 + off
    let s := s.modCore c fun k => k.fill c e.mem sl priv (if priv then 0 else mFill d.m0)
    let s := if comb then s.modCore c fun k => { k with act := k.act.clear lo len } else s
    let s := s.modWin c n fun w =>
      { gen := w.gen + 1, isOpen := true, combining := comb, owner := some x, lo := lo, len := len
        tag := if comb then BitVec.ofNat 16 (fld d.m0 47 32) else 0, expect := if comb then fld d.m0 31 16 else 0
        perContribution := comb && bit d.m0 5, cfmt := if comb then fld d.m0 3 0 else 0, gx := if comb then signedN 13 (fld d.m1 12 0) else 0 }
    let s := s.setResult c d (((s.core c).win n).gen.zeroExtend 64)
    (s.grantHeld c x.slot n x.gen, none)

/-- WCLOSE (R256); a combining inbox is handled as a window (R258). -/
def State.runWclose (s : State) (c : PCore) (x : Inst) (d : Cmd) : Ran :=
  let w := (s.core c).win d.fn
  if w.isOpen && w.owner == some x then (s.modWin c d.fn Win.shut, none) else (s, none)

end Sys2Proof.Machine
end

