-- ==== Sys2Proof/Machine/Arrive.lean ====
section
/-! DEFINITION. Sys2Proof/Machine/Arrive.lean: what a core does with the items that reach it over the mesh (R248, R253,
R254, R257, R283 to R285), a mesh timeout (R338), and QUEUE_STALE (R242). -/

namespace Sys2Proof.Machine

/-- The item at the head of a core's arrivals, if it is of this kind, and the state without it. -/
def State.takeItem (s : State) (c : PCore) (kind : Nat) : Option (Item × State) :=
  if !s.runs then none else
  match (s.core c).meshIn with
  | it :: t => if it.hdr.kind = kind then some (it, s.modCore c fun k => { k with meshIn := t, creditWait := false }) else none
  | [] => none

/-! ### The check of R253 -/

/-- What the check of an arrival decides before its target: its context's slot, or a drop, or a hold. -/
inductive Check where
  | drop (reason : Nat)
  | hold (i : Slot)
  | ok (i : Slot)
deriving DecidableEq, Repr

/-- The first two checks: the context and the instance generation. -/
def State.checkHdr (s : State) (h : MsgHdr) : Check :=
  match slot? h.dstSlot with
  | none => .drop 3
  | some i =>
    let k := s.ctx i
    if k.state ≠ .loaded || k.id ≠ h.ctxId then .drop 3 else
    match serialCompare h.igen k.igen with
    | .less => .drop 2
    | .greater => if h.kind = kRequest then .hold i else .ok i
    | .equal => .ok i

/-- A request that has passed its generation reaches its target (R253): queued for a grant, held, or dropped. -/
def State.request (s : State) (c : PCore) (i : Slot) (h : MsgHdr) : State :=
  match if h.window then none else (s.core c).inbox i h.target with
  | some b =>
    if !b.isOpen then s.dropMsg c h 2
    else (s.modInbox c i h.target fun b => { b with waitq := b.waitq ++ [h] }).serve c i h.target
  | none => s.winRequest c i h

/-- Items that a core's request queue takes: 48 in its middle store, 8 and 8 in registers (R236 to R238). -/
def reqCap : Nat := 64

/-- A request at the head of a core's arrivals waits for a credit; the core's router notes it once (R238, Table 16.5). -/
def State.waitCredit (s : State) (c : PCore) : State :=
  match s.takeItem c kRequest with
  | none => s
  | some (it, _) =>
    if (s.core c).creditWait then s else
    (s.modCore c fun k => { k with creditWait := true }).hang (oCore c) 5 0x23 it.slot (msgData it.hdr)

/-- REQUEST (R248, R253). Without a credit of the request queue it waits where it is (R238). -/
def State.arriveRequest (s : State) (c : PCore) : State :=
  if (s.core c).reqq.length ≥ reqCap then s.waitCredit c else
  match s.takeItem c kRequest with
  | none => s
  | some (it, s) =>
    let s := s.taken 3 c.val
    match s.checkHdr it.hdr with
    | .drop r => s.dropMsg c it.hdr r
    | .hold _ => s.modCore c fun k => { k with reqq := k.reqq ++ [it.hdr] }
    | .ok i => s.request c i it.hdr

/-- The requests that a core holds for a context are checked again when the context admits a slice (R253). -/
def State.recheckHeld (s : State) (c : PCore) (i : Slot) : State :=
  let l := (s.core c).reqq
  let s := s.modCore c fun k => { k with reqq := [] }
  let s := l.foldl (fun s h =>
    if h.dstSlot ≠ i.val then s.modCore c fun k => { k with reqq := k.reqq ++ [h] } else
    match s.checkHdr h with
    | .drop r => s.dropMsg c h r
    | .hold _ => s.modCore c fun k => { k with reqq := k.reqq ++ [h] }
    | .ok i => s.request c i h) s
  s.reqTaken c l.length

/-- The checks of an arrival with a payload (R253): none where it was dropped. -/
def State.checkData (s : State) (c : PCore) (h : MsgHdr) : State × Option Slot :=
  match s.checkHdr h with
  | .drop r => (s.dropMsg c h r, none)
  | .hold i => (s, some i)
  | .ok i =>
    if h.ctxGen ≠ (s.ctx i).ctxGen then (s.dropMsg c h 1, none) else
    let gen := match if h.window then none else (s.core c).inbox i h.target with
      | some b => b.gen
      | none => ((s.core c).win h.target).gen
    match serialCompare h.dgen gen with
    | .equal => (s, some i)
    | .less => (s.dropMsg c h 1, none)
    | .greater =>
      ((s.report { code := 0x6004, slot := i.val, origin := oCore c, core := some c }).dropMsg c h 1, none)

/-- The request that an item of data answers is no longer outstanding. -/
def Core.useGrant (k : Core) (h : MsgHdr) : Core :=
  { k with given := k.given.filter fun g => !(g.1.srcChip == h.srcChip && g.1.srcCore == h.srcCore && g.1.gid == h.gid && g.1.igen == h.igen) }

/-- The payload of a message written into its reservation, then the header unit (R239, R248); both are the receiver's activity
(R110). -/
def State.fillRing (s : State) (c : PCore) (b : Inbox) (it : Item) : State :=
  let h := it.hdr
  let s := s.modCore c fun k => { k with
    act := (k.act.writeBytes (b.base + 64 * (h.offset + 1)) it.data).writeBytes (b.base + 64 * h.offset + 8) (leBytes 32 h.pack.toNat) }
  let s := s.countScr b.slot (64 + it.data.length)
  s.putRingHead c b h.offset true 0 (h.units + 1) it.data.length

/-- MESSAGE (R248, R259). An item that was cut is discarded (R285). -/
def State.arriveMessage (s : State) (c : PCore) : State :=
  match s.takeItem c kMessage with
  | none => s
  | some (it, s) =>
    if it.cut then s else
    match s.checkData c it.hdr with
    | (s, none) => s
    | (s, some i) =>
      let s := (s.countCore c 18 it.hdr.units).modCore c fun k => k.useGrant it.hdr
      match if it.hdr.window then none else (s.core c).inbox i it.hdr.target with
      | some b => s.fillRing c b it
      | none => s.contribute c i it.hdr it.data

/-- WRITE (R257): it lands in the window's slots; of an item that was cut, the part that has landed stays (R285). -/
def State.arriveWrite (s : State) (c : PCore) : State :=
  match s.takeItem c kWrite with
  | none => s
  | some (it, s) =>
    match s.checkData c it.hdr with
    | (s, none) => s
    | (s, some i) =>
      let w := (s.core c).win it.hdr.target
      let s := (s.countCore c 18 it.hdr.units).modCore c fun k => k.useGrant it.hdr
      if (it.hdr.offset + it.hdr.units) * 64 > w.len then s.fault c i 0x6007
      else (s.countScr i it.data.length).modCore c fun k => { k with act := k.act.writeBytes (w.lo + 64 * it.hdr.offset) it.data }

/-! ### Answers (R254, R284) -/

/-- The grant-table entry that an answer meets; none where R284 discards it. -/
def State.awaited (s : State) (c : PCore) (h : MsgHdr) : Option GrantEnt :=
  match (s.core c).grants.at? h.gid with
  | some (some e) => if e.granted || e.igen ≠ h.igen || (s.ctx e.slot).draining then none else some e
  | _ => none

/-- A late reply is counted at the port that it came in on (R284, R362). A reply of this chip came in on none, and
is counted at port 0 (DESIGN CHOICE, log entry 80). -/
def State.lateReply (s : State) (it : Item) : State := s.count (0x1907 + 64 * (it.port.map (·.val)).getD 0) 1

/-- GRANT (R248): the entry holds what its payload will carry. -/
def State.arriveGrant (s : State) (c : PCore) : State :=
  match s.takeItem c kGrant with
  | none => s
  | some (it, s) =>
    let h := it.hdr
    match s.awaited c h with
    | none => s.lateReply it
    | some e =>
      let e := { e with granted := true, hdr := { e.hdr with ctxGen := h.ctxGen, dgen := h.dgen, offset := h.offset } }
      let s := s.modCore c fun k => { k with grants := k.grants.putN h.gid (some e) }
      s.hang (oCore c) 4 0x21 e.slot.val (msgData h)

/-- The command that waits for a grant-table entry learns of its NACK. -/
def Core.nackCmd (k : Core) (num gid : Nat) : Core :=
  { k with queues := k.queues.map fun q => q.map fun d => if d.num == num && d.gids.contains gid then { d with nacked := d.nacked ++ [gid] } else d }

/-- NACK (R254): the entry is free; TOO_LONG faults, any other reason completes the command without delivery. -/
def State.arriveNack (s : State) (c : PCore) : State :=
  match s.takeItem c kNack with
  | none => s
  | some (it, s) =>
    let h := it.hdr
    match s.awaited c h with
    | none => s.lateReply it
    | some e =>
      let s := s.modCore c fun k => ({ k with grants := k.grants.putN h.gid none } : Core).nackCmd e.num h.gid
      let s := s.hang (oCore c) 4 0x22 e.slot.val (msgData h)
      let s := s.countCtx e.slot 15 1
      if h.reason = 4 then s.fault c e.slot 0x6006
      else s.modCtx e.slot fun k => { k with nacks := k.nacks + 1 }

/-! ### WITHDRAW (R283) -/

/-- The request of a WITHDRAW. -/
def MsgHdr.sameReq (a b : MsgHdr) : Bool := a.srcChip == b.srcChip && a.srcCore == b.srcCore && a.gid == b.gid && a.igen == b.igen

def State.arriveWithdraw (s : State) (c : PCore) : State :=
  match s.takeItem c kWithdraw with
  | none => s
  | some (it, s) =>
    let h := it.hdr
    let k := s.core c
    if k.reqq.any (·.sameReq h) then
      (s.modCore c fun k => { k with reqq := k.reqq.filter fun r => !r.sameReq h }).reqTaken c k.reqq.length
    else if k.inboxes.any fun b => b.waitq.any (·.sameReq h) then
      s.modCore c fun k => { k with inboxes := k.inboxes.map fun b => { b with waitq := b.waitq.filter fun r => !r.sameReq h } }
    else
      match k.given.find? fun g => g.1.sameReq h with
      | none => s
      | some (r, u, gen) =>
        let s := s.modCore c fun k => { k with given := k.given.filter fun g => !g.1.sameReq h }
        match slot? r.dstSlot with
        | none => s
        | some i =>
          match if r.window then none else (s.core c).inbox i r.target with
          | some b => if b.gen = gen then s.putRingHead c b u true 1 (r.units + 1) 0 else s
          | none =>
            let w := (s.core c).win r.target
            if w.isOpen && w.combining && w.gen == gen then s.modWin c r.target fun w => { w with granted := w.granted - 1 } else s

/-! ### Timeouts -/

/-- DATA of a MESH_TIMEOUT event (Table 16.5): the header of the oldest message of the context that the core has in its grant table;
where the transfer is no message that the state still holds, a free value (log entry 84). -/
def State.timeoutData (s : State) (c : PCore) (i : Slot) : W64 × State :=
  match ((s.core c).grants.toList.filterMap id).find? fun e => e.slot = i with
  | some e => (msgData e.hdr, s)
  | none => let r := s.takeFree; ((Config.freeValue r.1).extractLsb' 0 48 |>.zeroExtend 64, r.2)

/-- A mesh transfer of a context has no acknowledgement (R338): MESH_TIMEOUT against the router that did not answer. -/
def State.meshTimeout (s : State) (c : PCore) (origin : W16) (i : Slot) : State :=
  if !s.runs || !(s.ctx i).resident then s else
  let s := s.countCore c 25 1
  let (d, s) := s.timeoutData c i
  let s := s.hang (oCore c) 5 0x24 i.val d
  s.teardown i 0x4040 0 origin (some c)

/-- A queue instance has been non-empty for the stale time without its consumer taking an item (R242). -/
def State.queueStale (s : State) (q : QueueRef) : State :=
  let q := ownedRef q
  if !s.runs || fld s.cfg.qstale 23 0 = 0 || q.kind.toNat > 8 || !bit s.cfg.qstale (24 + staleGroup q.kind.toNat) || !s.queueHolds q ||
     s.cfg.staleSaid.contains q then s else
  let owner := match q.owner with | some i => i.val | none => 0x7F
  let s : State := { s with cfg := { s.cfg with staleSaid := s.cfg.staleSaid ++ [q] } }
  s.report { code := 0x6002, slot := owner, origin := oCtl,
             detail := BitVec.ofNat 128 (q.kind.toNat <<< 12 ||| q.index.toNat ||| owner <<< 16) }

/-! ### The commands -/

def execRequest (core : PCore) (s : State) : Host.Outcome State Fault Refusal := s.run fun s => s.arriveRequest core
def execGrant (core : PCore) (s : State) : Host.Outcome State Fault Refusal := s.run fun s => s.arriveGrant core
def execNack (core : PCore) (s : State) : Host.Outcome State Fault Refusal := s.run fun s => s.arriveNack core
def execMessage (core : PCore) (s : State) : Host.Outcome State Fault Refusal := s.run fun s => s.arriveMessage core
def execWindowWrite (core : PCore) (s : State) : Host.Outcome State Fault Refusal := s.run fun s => s.arriveWrite core
def execWithdraw (core : PCore) (s : State) : Host.Outcome State Fault Refusal := s.run fun s => s.arriveWithdraw core
def execMeshTimeout (core : PCore) (origin : W16) (i : Slot) (s : State) : Host.Outcome State Fault Refusal := s.run fun s => s.meshTimeout core origin i
def execQueueStale (q : QueueRef) (s : State) : Host.Outcome State Fault Refusal := s.run fun s => s.queueStale q

end Sys2Proof.Machine
end

