-- ==== Sys2Proof/Machine/Clock.lean ====
section
/-! DEFINITION. Sys2Proof/Machine/Clock.lean: the array clock: bounds and f_floor (R35, R39), the throttle requests of Table
17.4, and the transitions of R376 and R381. Clocks are in units of 100 MHz. -/

namespace Sys2Proof.Machine

/-- T(f) and an extra time fit a budget: A ÷ f + F + extra ≤ budget, exactly (R35). -/
def boundFits (a f extra budget k : Nat) : Bool := decide (10 * a + k * (f + extra) ≤ k * budget)

/-- Every slice in service still fits its budget at a clock; a clock other than the one in force costs 1,000 ns (R39). -/
def State.slicesFit (s : State) (k : Nat) : Bool :=
  allSlots.all fun i => match (s.ctx i).slice with
    | some l => boundFits l.boundA l.boundF (if k = s.pwr.aclk then 0 else 1000) l.budget k
    | none => true

/-- f_floor (R39); where no clock fits every slice, the highest (log entry 43). -/
def State.fFloor (s : State) : Nat := (((List.range 19).map (12 + ·)).find? s.slicesFit).getD 30

/-- The targets of the ordinary requests raised. -/
def PwrSt.ordinary (p : PwrSt) : List Nat :=
  [p.target] ++ (if p.throttle = 0 then [] else [p.throttle]) ++ (if p.soft then [p.softClk] else [])

/-- The targets of the emergency requests raised. -/
def PwrSt.emergency (p : PwrSt) : List Nat := p.emergPin.toList ++ (if p.emergTherm then [12] else []) ++ (if p.emergVok then [12] else [])

/-- The least of a list, n where it is empty. -/
def leastOf (n : Nat) (l : List Nat) : Nat := l.foldl min n

/-- The lowest ordinary target. -/
def PwrSt.ord (p : PwrSt) : Nat := leastOf 30 p.ordinary

/-- The clock that admission uses (R35): the lower of the clock in force and the lowest ordinary target. -/
def State.fAdm (s : State) : Nat := min s.pwr.aclk s.pwr.ord

/-- The array clock's target (R382). -/
def State.clockTarget (s : State) : Nat :=
  let clk := max s.pwr.ord s.fFloor
  leastOf clk s.pwr.emergency

/-- The VID of a clock. -/
def State.vidOf (s : State) (k : Nat) : Nat := (s.cfg.vids[k - 12]?).getD 140

/-- A transition to another clock starts (R376, R381): raising waits for ARY_VOK first, lowering gates the array at once. -/
def State.startTrans (s : State) (k : Nat) : State :=
  let p := s.pwr
  let t : Trans := { target := k, waitVok := false, oldVid := p.vid, fromClk := p.aclk, since := s.clk.time }
  if k > p.aclk && !(s.vidOf k = p.vid && p.vok) then { s with pwr := { p with vid := s.vidOf k, vok := p.vok && s.vidOf k == p.vid, trans := some { t with waitVok := true } } }
  else { s with pwr := { p with trans := some t, gated := true } }

/-- An emergency throttle below f_floor is reported (R39). -/
def State.noteEmergency (s : State) (k : Nat) : State :=
  if !s.pwr.emergency.isEmpty && k < s.fFloor then s.note 0x2008 k else s

/-- The clocks of the array run and the block is in service: its target counts (R382, R385), after FATAL_ERROR too (R337). -/
def State.clockLive (s : State) : Bool := s.cfg.done && s.pwr.alock && s.pwr.aryPg && s.pwr.memPg

/-- An emergency target below the one in progress replaces it at once (R381). -/
def State.cutTrans (s : State) (t : Trans) (k : Nat) : State :=
  if s.pwr.emergency.isEmpty || leastOf 30 s.pwr.emergency ≥ t.target || k ≥ t.target then s else
  let s := s.noteEmergency k
  let s : State := { s with pwr := { s.pwr with goal := k } }
  if !t.waitVok then { s with pwr := { s.pwr with trans := some { t with target := k, since := s.clk.time } } }
  else
    let back : State := { s with pwr := { s.pwr with trans := none, vid := t.oldVid } }
    if k = s.pwr.aclk then back else back.startTrans k

/-- The target of the array clock is set (R382): a change of it starts a transition; during one, only an emergency target
below the one in progress replaces it (R381). -/
def State.retarget (s : State) : State :=
  if !s.clockLive then s else
  let k := s.clockTarget
  match s.pwr.trans with
  | some t => s.cutTrans t k
  | none =>
    if k = s.pwr.goal then s else
    let s := s.noteEmergency k
    let s : State := { s with pwr := { s.pwr with goal := k } }
    if k = s.pwr.aclk then s else s.startTrans k

end Sys2Proof.Machine
end

