-- ==== Sys2Proof/Machine/Records.lean ====
section
/-! DEFINITION. Sys2Proof/Machine/Records.lean: the records of a task-graph image as the block reads them (R53 to R62), and
their reserved fields. -/

namespace Sys2Proof.Machine

/-- A task record from its 32 bytes (Table 3.4). -/
def TaskRec.ofBytes (bs : List Byte) : TaskRec :=
  let w (i : Nat) : W32 := le32 bs (4 * i)
  { merge := bit (w 0) 24, recomp := bit (w 0) 23, prio := fld (w 0) 22 21, ports := fld (w 0) 20 16, dep := fld (w 0) 15 0
    kernel := fld (w 1) 29 16, affinity := fld (w 1) 15 8, layer := fld (w 1) 7 0, edgeFirst := (w 2).toNat, edgeCount := fld (w 3) 15 0
    atomic := fld (w 3) 31 16, ord := fld (w 4) 23 16, nout := fld (w 4) 12 8, npred := fld (w 4) 4 0, arg := le64 bs 20 }

/-- The 32 bytes of a task record. -/
def TaskRec.bytes (t : TaskRec) : List Byte :=
  leBytes 4 (b2n t.merge <<< 24 ||| b2n t.recomp <<< 23 ||| t.prio <<< 21 ||| t.ports <<< 16 ||| t.dep) ++
  leBytes 4 (t.kernel <<< 16 ||| t.affinity <<< 8 ||| t.layer) ++ leBytes 4 t.edgeFirst ++ leBytes 4 (t.atomic <<< 16 ||| t.edgeCount) ++
  leBytes 4 (t.ord <<< 16 ||| t.nout <<< 8 ||| t.npred) ++ leBytes 8 t.arg.toNat ++ [0, 0, 0, 0]

/-- Reserved bits of a task record that are not zero (R6). -/
def taskReserved (bs : List Byte) : Bool :=
  fld (le32 bs 0) 31 25 ≠ 0 || fld (le32 bs 4) 31 30 ≠ 0 || fld (le32 bs 16) 31 24 ≠ 0 || fld (le32 bs 16) 15 13 ≠ 0 ||
  fld (le32 bs 16) 7 5 ≠ 0 || le32 bs 28 ≠ 0

/-- The conditions of check 9 on a task record alone (Table 3.7). -/
def TaskRec.indexBad (t : TaskRec) (edges cores layers klen : Nat) : Bool :=
  t.edgeFirst + t.edgeCount > edges || (t.edgeFirst ≠ 0 && t.edgeCount = 0) || t.ports > 16 || t.nout > 16 || t.npred > 16 ||
  (t.affinity ≥ cores && t.affinity ≠ 0xFF) || (t.layer ≥ layers && t.layer ≠ 0xFF) || t.kernel * 4 ≥ klen

/-- An edge record from its 8 bytes (Table 3.5). -/
def EdgeRec.ofBytes (bs : List Byte) : EdgeRec :=
  let w := le32 bs 0
  { target := fld w 17 0, port := fld w 22 18, cond := bit w 23, pred := fld w 27 24, sense := bit w 28, out := fld (le32 bs 4) 7 0 }

/-- Reserved bits and codes of an edge record: its reserved fields, a reserved PORT, PRED without COND, OUT on a control
edge. Table 3.5 says that the last two are zero and names no check: they count as reserved fields there (check 3), and SENSE
without COND, of which it says nothing, is not looked at (DESIGN CHOICE, log entry 75). -/
def edgeReserved (bs : List Byte) : Bool :=
  let e := EdgeRec.ofBytes bs
  fld (le32 bs 0) 31 29 ≠ 0 || fld (le32 bs 4) 31 8 ≠ 0 || (e.port ≥ 16 && e.port ≠ 31) || (!e.cond && e.pred ≠ 0) ||
  (e.port = 31 && e.out ≠ 0)

/-- A handle record from its 16 bytes (Table 3.2). -/
def HandleRec.ofBytes (bs : List Byte) : HandleRec :=
  let w := le32 bs 0
  { h := fld w 7 0, mem := fld w 14 11, cls := fld w 10 8, size := (le32 bs 4).toNat, tid := (le32 bs 8).toNat, off := fld (le32 bs 12) 16 0 }

/-- Reserved bits and codes of a handle record. -/
def handleReserved (bs : List Byte) : Bool :=
  fld (le32 bs 0) 31 15 ≠ 0 || fld (le32 bs 0) 14 11 ≥ 7 || fld (le32 bs 0) 10 8 ≥ 4 || fld (le32 bs 12) 31 17 ≠ 0

/-- A GAB region record from its 24 bytes (Table 3.6). -/
def RegionRec.ofBytes (bs : List Byte) : RegionRec :=
  { layer := fld (le32 bs 0) 23 16, flow := fld (le32 bs 0) 15 0, off := fld (le32 bs 4) 16 0, len := fld (le32 bs 8) 17 0, mask := le64 bs 16 }

/-- Reserved bits of a region record. -/
def regionReserved (bs : List Byte) : Bool :=
  fld (le32 bs 0) 31 24 ≠ 0 || fld (le32 bs 4) 31 17 ≠ 0 || fld (le32 bs 8) 31 18 ≠ 0 || le32 bs 12 ≠ 0

/-- A token from its 16 bytes (Table 4.3); what REF or INLINE does not make valid is delivered as zero (R72). -/
def Token.ofBytes (bs : List Byte) : Token :=
  let w := le32 bs 0
  let ref := bit w 9
  let inl := bit w 8
  { ref := ref, inl := inl, handle := if ref then fld w 7 0 else 0, offset := if ref then (le32 bs 4).toNat else 0, value := if inl then le64 bs 8 else 0 }

/-- The 16 bytes of a token. -/
def Token.bytes (t : Token) : List Byte :=
  leBytes 4 (b2n t.ref <<< 9 ||| b2n t.inl <<< 8 ||| t.handle % 256) ++ leBytes 4 t.offset ++ leBytes 8 t.value.toNat

/-- Reserved bits of a token. -/
def tokenReserved (bs : List Byte) : Bool := fld (le32 bs 0) 31 10 ≠ 0

/-- Record i of an image in device memory. -/
def State.taskBytes (s : State) (im : Image) (i : Nat) : List Byte := s.devRead (im.addr + im.taskOff + 32 * i) 32

end Sys2Proof.Machine
end

