-- ==== Sys2Proof/Machine/Market.lean ====
section
/-! DEFINITION. Sys2Proof/Machine/Market.lean: the Market: instances (R67), arrivals and readiness (R75 to R79), quotas and
the pool (R89), POST and retirement (R73), and the completion of a slice with its vote (R22, R44). -/

namespace Sys2Proof.Machine

/-! ### Counts of the stores -/

/-- LIVE(c): matching-store entries of a context but its retained tokens (R89). -/
def Market.live (m : Market) (i : Slot) : Nat := (m.matching.filter fun e => e.2.slot == i && !e.2.retained).length
/-- RET(c): its retained tokens. -/
def Market.ret (m : Market) (i : Slot) : Nat := (m.matching.filter fun e => e.2.slot == i && e.2.retained).length
/-- The entries that a context holds of the shared pool. -/
def State.poolUse (s : State) (i : Slot) : Nat := s.mkt.live i + s.mkt.ret i - (s.ctx i).quota
/-- Free entries of the shared pool (R89). -/
def State.poolFree (s : State) : Nat :=
  65536 - natSum (allSlots.map fun i => (s.ctx i).quota) - natSum (allSlots.map s.poolUse)
/-- Task-store entries of a context. -/
def Market.entries (m : Market) (i : Slot) : Nat := (m.tasks.filter fun e => e.2.slot == i).length

/-! ### Entries -/

/-- A task-store entry replaced. -/
def State.putTask (s : State) (idx : Nat) (e : TaskEnt) : State := { s with mkt := { s.mkt with tasks := s.mkt.tasks.insert idx e } }
/-- Matching-store entries freed. -/
def State.freeMatch (s : State) (l : List Nat) : State := { s with mkt := { s.mkt with matching := s.mkt.matching.filter fun e => !l.contains e.1 } }
/-- A task-store entry freed, with its matching-store entries. -/
def State.freeTask (s : State) (idx : Nat) : State :=
  match s.mkt.tasks.find idx with
  | none => s
  | some e => ({ s with mkt := { s.mkt with tasks := s.mkt.tasks.erase idx } }).freeMatch e.list

/-- The instance of a task of the slice in service. -/
def Market.instanceOf (m : Market) (i : Slot) (task : Nat) : Option (Nat × TaskEnt) :=
  m.tasks.find? fun e => e.2.slot == i && e.2.task == task

/-- An instance is created (R66, R67, R69): its index, or none where the context was torn down. R66 and R69 give no order:
the reservation is tested before the task record is read, so TASKS_OVER_PEAK comes before TASK_RECORD_BAD (DESIGN CHOICE, log
entry 75). -/
def State.create (s : State) (i : Slot) (task : Nat) : State × Option Nat :=
  let c := s.ctx i
  match c.image with
  | none => (s, none)
  | some im =>
    if s.mkt.entries i ≥ im.peakTasks then (s.teardown i 0x3104 0 (oMarket 0), none) else
    let bs := s.taskBytes im task
    let s := s.countImage i (im.addr + im.taskOff + 32 * task) 32
    let t := TaskRec.ofBytes bs
    if taskReserved bs || task ≥ im.tasks || t.indexBad im.edgeCount im.cores im.layers im.kernelLen then (s.teardown i 0x3102 0 (oMarket 0), none) else
    let idx := s.mkt.tasks.fresh 0
    let e : TaskEnt := { slot := i, gen := c.igen, task := task, rcd := t, count := t.dep, level := min t.prio c.policy.prio }
    (s.putTask idx e, some idx)

/-- The retained tokens on an instance's list (R87); its held outputs are not among them (R73, R89). -/
def Market.retainedOf (m : Market) (e : TaskEnt) : List Nat :=
  e.list.filter fun k => match m.matching.find k with | some x => x.retained | none => false

/-- Retained tokens of a context are released, oldest dispatch first, until an entry fits (R89); an instance that has none
is passed over, and held outputs stay until its retirement (R73); fuel. -/
def State.releaseRetained (s : State) (i : Slot) : Nat → State
  | 0 => s
  | f + 1 =>
    if s.mkt.live i + s.mkt.ret i < (s.ctx i).quota || s.poolFree > 0 then s else
    let held := s.mkt.tasks.filter fun e => e.2.slot == i && e.2.retained && !(s.mkt.retainedOf e.2).isEmpty
    match held with
    | [] => s
    | h :: t =>
      let o := t.foldl (fun a e => if e.2.order < a.2.order then e else a) h
      let gone := s.mkt.retainedOf o.2
      let s := s.freeMatch gone
      (s.putTask o.1 { o.2 with list := o.2.list.filter fun k => !gone.contains k, retained := false, state := if o.2.state = 3 then 4 else o.2.state }).releaseRetained i f

/-- What taking a matching-store entry ends in (R89). -/
inductive Took where
  | fault (s : State)
  | wait (s : State)
  | ok (s : State)

/-- A matching-store entry is taken for an instance's list (R89): TOKENS_OVER_PEAK, a wait for the pool, or the entry. -/
def State.takeEntry (s : State) (i : Slot) (idx port : Nat) (tok : Token) : Took :=
  let peak := match (s.ctx i).image with | some im => im.peakTokens | none => 0
  if s.mkt.live i + 1 > peak then .fault (s.teardown i 0x3107 0 (oMarket 1)) else
  let s := s.releaseRetained i 65536
  if !(s.mkt.live i + s.mkt.ret i < (s.ctx i).quota || s.poolFree > 0) then .wait s else
  match s.mkt.tasks.find idx with
  | none => .ok s
  | some e =>
    let k := s.mkt.matching.fresh 0
    let m : MatchEnt := { slot := i, gen := e.gen, task := e.task, port := port, tok := tok }
    let s : State := { s with mkt := { s.mkt with matching := s.mkt.matching.insert k m } }
    .ok (s.putTask idx { e with list := e.list ++ [k] })

/-! ### Completion of a slice -/

/-- The local time of the next Bell (R18, R42). -/
def State.nextBell (s : State) : Nat := match s.bel.marker with | some m => m.1 | none => s.bel.last + s.bel.period

/-- A routed link-control slot joins the reliable slots of the port its route names (R270, R280); src as for an item. -/
def State.sendCtl (s : State) (src dst : Nat) (slot : BitVec 256) : State :=
  match s.routeTo src dst with
  | some p => s.modPort p fun x => { x with reliable := x.reliable ++ [slot] }
  | none => s.noRoute src 0x7F

/-- A VOTE or DECISION slot (Table 12.5). -/
def voteSlot (ctype dst src : Nat) (id : W32) (step : W64) (abort : Bool) (policy : Nat) : BitVec 256 :=
  BitVec.ofNat 256 (ctype ||| dst <<< 8 ||| src <<< 16 ||| id.toNat <<< 32 ||| step.toNat <<< 64 ||| b2n abort <<< 128 ||| policy <<< 136)

/-- The chip that decides for a linked context: the decider of its group. -/
def Ctx.decides (c : Ctx) (chip : Nat) : Bool := c.group.linked && c.group.decider == chip

/-- The context's slices wait at each Bell for the decision of another chip (R44). -/
def Ctx.follows (c : Ctx) (chip : Nat) : Bool := c.resident && c.group.linked && c.group.decider != chip

/-- A slice whose tasks are all retired or skipped and whose durable writes are acknowledged is complete (R22); on a
linked context its vote goes to the deciding chip first, and none goes after B − BEL.GUARD (R44). The deciding chip's own
slice needs no vote and may complete right up to B: R44 asks of the decider that it is complete at its Bell instant, and of
the others that they have voted (DESIGN CHOICE, log entry 75). -/
def State.checkComplete (s : State) (i : Slot) : State :=
  let c := s.ctx i
  match c.slice, c.image with
  | some l, some im =>
    if l.complete || c.held.isSome || l.retired + l.skipped < im.tasks || s.writing (fun o => match o with | .slice j _ _ => j == i | _ => false) then s
    else if !c.group.linked || c.group.decider = s.mgmt.chip then
      s.modCtx i fun c => { c with slice := some { l with complete := true, voted := true } }
    else if s.clk.time + s.bel.guard ≥ s.nextBell then s
    else
      let s := s.modCtx i fun c => { c with slice := some { l with complete := true, voted := true } }
      s.sendCtl 0 c.group.decider (voteSlot 6 c.group.decider s.mgmt.chip c.id c.step false 0)
  | _, _ => s

/-- The slice's counts changed, and its completion checked. -/
def State.sliceCount (s : State) (i : Slot) (f : Slice → Slice) : State :=
  (s.modCtx i fun c => { c with slice := c.slice.map f }).checkComplete i

/-! ### Readiness, skipping (R77, R78) -/

/-- The successor edges of a task, in edge order. -/
def Image.edgesOf (im : Image) (t : TaskRec) : List EdgeRec := (im.edges.drop t.edgeFirst).take t.edgeCount
/-- The edges of an instance's task. -/
def State.edges (s : State) (e : TaskEnt) : List EdgeRec := match (s.ctx e.slot).image with | some im => im.edgesOf e.rcd | none => []

/-- The earliest item of the highest level of a list, and the list without it (R240). -/
def takeHigh (level : α → Nat) (l : List α) : Option (α × List α) :=
  let top := l.foldl (fun m a => max m (level a)) 0
  match l.find? fun a => level a == top with
  | some a => some (a, l.eraseIdx (l.findIdx fun a => level a == top))
  | none => none

/-- What an edge of an instance on a core brings to its target (R75), at the instance's level (R240). -/
def TaskEnt.sends (e : TaskEnt) (core : Option PCore) (d : EdgeRec) (kind : Nat) (tok : Token := {}) : Arrival :=
  { slot := e.slot, gen := e.gen, task := d.target, port := d.port, kind := kind, tok := tok, level := e.level, core := core }

/-- Arrivals join the queue of the matching store. -/
def State.arrive (s : State) (l : List Arrival) : State := { s with mkt := { s.mkt with arrivals := s.mkt.arrivals ++ l } }

/-- A RETIRE record: outcome 0 retired, 1 skipped, 2 pre-empted (Table 16.10). -/
def State.traceRetire (s : State) (e : TaskEnt) (outcome : Nat) : State :=
  s.trace 6 e.slot.val (oMarket 0) (bodyAt
    [(8, leBytes 4 e.task), (12, leBytes 2 e.gen.toNat), (14, [BitVec.ofNat 8 e.core]), (15, [BitVec.ofNat 8 outcome])])

/-- DATA of a Market event of Table 16.5. -/
def mktData (e : TaskEnt) : W64 := BitVec.ofNat 64 (e.task ||| e.gen.toNat <<< 18 ||| e.core <<< 30)

/-- An instance is skipped (R78). -/
def State.skip (s : State) (idx : Nat) (e : TaskEnt) : State :=
  let s := s.arrive ((s.edges e).map fun d => e.sends none d 1)
  let s := (s.freeTask idx).traceRetire e 1
  let s := ((s.count 0x1A02 1).countCtx e.slot 13 1).modCtx e.slot fun c => { c with act := { c.act with skipped := c.act.skipped + 1 } }
  s.sliceCount e.slot fun l => { l with skipped := l.skipped + 1 }

/-- The ready list of an instance: 4 × pitch + level (R80). -/
def State.listOf (s : State) (e : TaskEnt) : Nat := 4 * (s.ctx e.slot).policy.pitch.val + e.level

/-- A ready list replaced. -/
def State.setReady (s : State) (n : Nat) (l : List Nat) : State := { s with mkt := { s.mkt with ready := s.mkt.ready.putN n l } }
/-- A ready list. -/
def State.readyAt (s : State) (n : Nat) : List Nat := (s.mkt.ready.at? n).getD []

/-- The readiness test (R77). -/
def State.testReady (s : State) (idx : Nat) (e : TaskEnt) : State :=
  let t := e.rcd
  let all := if t.ports > 0 then e.skipMask.toNat == 2 ^ t.ports - 1 else decide (t.dep > 0) && !e.ctlReal
  if all then s.skip idx e
  else if e.skipMask ≠ 0 && !t.merge then s.teardown e.slot 0x3106 0 (oMarket 0)
  else
    let s := s.putTask idx { e with state := 2 }
    s.setReady (s.listOf e) (s.readyAt (s.listOf e) ++ [idx])

/-! ### Arrivals (R75) -/

/-- An arrival of an earlier generation, or of a draining context, is counted (R68, R76). -/
def State.discardArrival (s : State) (i : Slot) : State := (s.count 0x1A04 1).countCtx i 14 1

/-- One dependency less in 16 bits, and the readiness test at zero (R75): below zero the count wraps and is not tested. -/
def State.decrement (s : State) (idx : Nat) : State :=
  match s.mkt.tasks.find idx with
  | none => s
  | some e =>
    let e := { e with count := (e.count + 65535) % 65536 }
    let s := s.putTask idx e
    if e.count = 0 then s.testReady idx e else s

/-- What is first at the Market waits for the pool and stays where it was in the state t before (R89); the retained tokens that were
released for it stay released, and the Market notes the stall once (Table 16.5). -/
def State.poolStall (s t : State) (e : TaskEnt) : State :=
  let u : State := { s with
    mkt := { s.mkt with arrivals := t.mkt.arrivals, inq := t.mkt.inq, poolWait := true }, cfg := { s.cfg with staleSaid := t.cfg.staleSaid } }
  if t.mkt.poolWait then u else u.hang (oMarket 0) 0 0x35 e.slot.val (mktData e)

/-- Nothing waits for the pool any more. -/
def State.poolDone (s : State) : State := if s.mkt.poolWait then { s with mkt := { s.mkt with poolWait := false } } else s

/-- An arrival meets its instance. An upset arrival is one that a corrupted record made: it meets a port that has had its
arrival (R76). Where it waits for the pool, it stays as it was in the state t before (R89). -/
def State.meet (s t : State) (a : Arrival) (idx : Nat) (e : TaskEnt) (upset : Bool) : State :=
  if a.port < 16 then
    if upset || bit e.dataMask a.port || bit e.skipMask a.port then s.teardown a.slot 0x3105 0 (oMarket 1)
    else if a.kind = 0 then
      match s.takeEntry a.slot idx a.port a.tok with
      | .fault s => s.poolDone
      | .wait s => s.poolStall t e
      | .ok s =>
        match s.mkt.tasks.find idx with
        | none => s.poolDone
        | some e => (s.poolDone.putTask idx { e with dataMask := setBit e.dataMask a.port true }).decrement idx
    else (s.putTask idx { e with skipMask := setBit e.skipMask a.port true }).decrement idx
  else if a.kind = 2 then (s.putTask idx { e with ctlReal := true }).decrement idx
  else s.decrement idx

/-- The consumer of a Market input queue has taken an arrival from it (R242). -/
def State.arrivalTaken (s : State) (a : Arrival) : State := match a.core with | some c => s.taken 1 c.val | none => s

/-- ARRIVAL: of the arrivals that wait, the earliest of the highest level is handled (R75, R240). R68 says what becomes of one for a
draining context and by its generation; one for a context that has no slice in service is discarded and counted whatever its
generation (DESIGN CHOICE, log entry 84). -/
def State.arrival (s : State) (upset : Bool) : State :=
  if !s.runs then s else
  match takeHigh Arrival.level s.mkt.arrivals with
  | none => s
  | some (a, t) =>
    let s' : State := { s with mkt := { s.mkt with arrivals := t } }
    let s' := s'.arrivalTaken a
    let c := s.ctx a.slot
    if c.draining || c.slice.isNone then s'.discardArrival a.slot else
    match serialCompare a.gen c.igen with
    | .less => s'.discardArrival a.slot
    | .greater => s'.report { code := 0x3103, slot := a.slot.val, origin := oMarket 0 }
    | .equal =>
      match s.mkt.instanceOf a.slot a.task with
      | some (idx, e) => s'.meet s a idx e upset
      | none =>
        match s'.create a.slot a.task with
        | (s', none) => s'
        | (s', some idx) =>
          match s'.mkt.tasks.find idx with
          | none => s'
          | some e => s'.meet s a idx e upset

/-! ### POST and retirement (R73) -/

/-- The earliest message of the highest level of a core's Market input queue, and the state without it (R240). -/
def State.inqTake (s : State) (c : PCore) : Option (MktMsg × State) :=
  if !s.runs then none else
  match takeHigh MktMsg.level (s.mkt.inq.get c) with
  | none => none
  | some (m, t) => some (m, ({ s with mkt := { s.mkt with inq := s.mkt.inq.put c t } } : State).taken 1 c.val)

/-- The entry of an instance that a message names, of the slice in service. -/
def State.entryOf (s : State) (x : Inst) : Option TaskEnt :=
  match s.mkt.tasks.find x.idx with
  | some e => if e.slot == x.slot && e.gen == x.gen && e.task == x.task && !(s.ctx x.slot).draining then some e else none
  | none => none

/-- POST_ACCEPT (R73): copies on the unconditional data edges of the output, and one held copy for the conditional ones. -/
def State.postAccept (s : State) (c : PCore) : State :=
  match s.inqTake c with
  | some (.post x out t, s') =>
    match s'.entryOf x with
    | none => s'.discardArrival x.slot
    | some e =>
      let out' := (s'.edges e).filter fun d => d.port < 16 && d.out == out
      let now := (out'.filter fun d => !d.cond).map fun d => e.sends (some c) d 0 t
      if out'.any (·.cond) then
        match s'.takeEntry e.slot x.idx (16 + out) t with
        | .fault s => s.poolDone
        | .wait s' => s'.poolStall s e
        | .ok s => s.poolDone.arrive now
      else s'.arrive now
  | _ => s

/-- What an edge carries at the retirement of its producer (R73). -/
def edgeArrival (e : TaskEnt) (core : PCore) (preds : W16) (held : Nat → Token) (d : EdgeRec) : Option Arrival :=
  let a (kind : Nat) (tok : Token := {}) : Arrival := e.sends (some core) d kind tok
  let takenEdge := !d.cond || bit preds d.pred == d.sense
  if d.port < 16 then
    if !d.cond then none
    else if takenEdge then some (a 0 (held d.out)) else some (a 1)
  else if takenEdge then some (a 2) else some (a 1)

/-- An instance's statistics join its context's running statistics (R200). -/
def LayerStat.join (a b : LayerStat) : LayerStat :=
  { dmax := if a.dmax.toNat ≥ b.dmax.toNat then a.dmax else b.dmax, wmax := if a.wmax.toNat ≥ b.wmax.toNat then a.wmax else b.wmax
    spec := min (a.spec + b.spec) (2 ^ 32 - 1), hist := (a.hist.zip b.hist).map fun p => min (p.1 + p.2) (2 ^ 32 - 1) }

/-- RETIREMENT (R73): the edge walk, the held tokens and the entry freed, the statistics joined. The held tokens leave the matching
store, and LIVE, before the copies that the walk has queued are counted in it: R73 does not say which comes first (DESIGN CHOICE,
log entry 84). -/
def State.retirement (s : State) (c : PCore) : State :=
  match s.inqTake c with
  | some (.retire x preds stat, s') =>
    match s'.entryOf x with
    | none => s'.discardArrival x.slot
    | some e =>
      let s := s'
      let held (out : Nat) : Token :=
        ((e.list.filterMap fun k => s.mkt.matching.find k).find? fun m => m.port == 16 + out).map (·.tok) |>.getD {}
      let s := s.arrive ((s.edges e).filterMap (edgeArrival e c preds held))
      let s := (s.freeTask x.idx).traceRetire e 0
      let s := s.hang (oMarket 0) 0 0x32 e.slot.val (mktData e)
      let s := s.modCtx e.slot fun k => { k with
        act := { k.act with retired := k.act.retired + 1 }
        statRun := if x.layer = 0xFF then k.statRun else k.statRun.insert x.layer (((k.statRun.find x.layer).getD {}).join stat) }
      let s := (s.count 0x1A01 1).countCtx e.slot 12 1
      s.sliceCount e.slot fun l => { l with retired := l.retired + 1 }
  | _ => s

/-! ### The commands -/

def execArrival (upset : Bool) (s : State) : Host.Outcome State Fault Refusal := s.run fun s => s.arrival upset
def execPostAccept (core : PCore) (s : State) : Host.Outcome State Fault Refusal := s.run fun s => s.postAccept core
def execRetirement (core : PCore) (s : State) : Host.Outcome State Fault Refusal := s.run fun s => s.retirement core

end Sys2Proof.Machine
end

