-- ==== Sys2Proof/Machine/ImageFile.lean ====
section
/-! DEFINITION. Sys2Proof/Machine/ImageFile.lean: a task-graph image as it stands in device memory, the load checks of
Table 3.7 and R421 in their order, and the install and the freeing of an image (R49 to R65). -/

namespace Sys2Proof.Machine

/-! ### The file (R49, R50) -/

/-- A section: its offset, the size of a record and its number of records. -/
structure Sect where
  off : Nat
  size : Nat
  count : Nat

/-- Bytes of a section. -/
def Sect.len (x : Sect) : Nat := x.size * x.count

/-- The records of a section that lie wholly within the image (R64). -/
def Sect.records (x : Sect) (bs : List Byte) : List (List Byte) :=
  let n := if x.off ≥ bs.length then 0 else min x.count ((bs.length - x.off) / x.size)
  (List.range n).map fun i => (bs.drop (x.off + x.size * i)).take x.size

/-- The header of an image and its sections in their record form (Table 3.1). -/
structure ImageFile where
  len : Nat
  flags : W32
  tasks : Nat
  edges : Nat
  handles : Nat
  regions : Nat
  cores : Nat
  entries : Nat
  hd : List Byte
  handleS : Sect
  taskS : Sect
  edgeS : Sect
  regionS : Sect
  kernelS : Sect

/-- The header read from its 128 bytes. -/
def ImageFile.ofHeader (hd : List Byte) : ImageFile :=
  let n4 (o : Nat) : Nat := (le32 hd o).toNat
  let n2 (o : Nat) : Nat := (le16 hd o).toNat
  { len := n4 8, flags := le32 hd 12, tasks := n4 16, edges := n4 20, handles := n2 24, regions := n2 26, cores := n2 28
    entries := n2 30, hd := hd
    handleS := ⟨n4 64, 16, n2 24⟩, taskS := ⟨n4 68, 32, n4 16⟩, edgeS := ⟨n4 72, 8, n4 20⟩, regionS := ⟨n4 76, 24, n2 26⟩
    kernelS := ⟨n4 80, 1, n4 84⟩ }

/-- Check 1 (R51): MAGIC, HDR_LEN, VERSION, IMAGE_LEN. -/
def ImageFile.identity (f : ImageFile) : Option W16 :=
  if le32 f.hd 0 ≠ 0x4947545A || le16 f.hd 6 ≠ 128 then some 0xA201
  else if le16 f.hd 4 ≠ 0x0100 then some 0xA202
  else if f.len < 128 then some 0xA205 else none

/-- Check 2 (R50): CRC-32C over the image with its field taken as zero. -/
def crcGood (bs : List Byte) : Bool := crc32c (zeroAt bs 124) == le32 bs 124

/-- Check 3: reserved fields and encodings of the header and of every record within IMAGE_LEN. -/
def ImageFile.reserved (f : ImageFile) (bs : List Byte) : Bool :=
  fld f.flags 31 2 ≠ 0 || !zeroBytes f.hd 62 64 || !zeroBytes f.hd 96 124 ||
  (f.handleS.records bs).any handleReserved || (f.taskS.records bs).any taskReserved || (f.edgeS.records bs).any edgeReserved ||
  (f.regionS.records bs).any regionReserved

/-- The five sections. -/
def ImageFile.sects (f : ImageFile) : List Sect := [f.handleS, f.taskS, f.edgeS, f.regionS, f.kernelS]

/-- A section that R49 allows by itself. -/
def ImageFile.sectOk (f : ImageFile) (x : Sect) : Bool :=
  if x.count = 0 then x.off == 0 else x.off % 16 == 0 && decide (128 ≤ x.off) && decide (x.off + x.len ≤ f.len)

/-- Two ranges share an element. -/
def rangesMeet (a la b lb : Nat) : Bool := decide (a < b + lb) && decide (b < a + la)

/-- No two elements of a list stand in a relation, each compared with those after it. -/
def noPair (r : α → α → Bool) : List α → Bool
  | [] => true
  | x :: t => !t.any (r x) && noPair r t

/-- Check 4: the limits of Table 3.1 and the layout of R49. -/
def ImageFile.layoutOk (f : ImageFile) : Bool :=
  decide (1 ≤ f.tasks) && decide (f.tasks ≤ 262144) && decide (f.edges ≤ 1048576) && decide (f.handles ≤ 256) &&
  decide (f.regions ≤ 1024) && decide (1 ≤ f.cores) && decide (f.cores ≤ 64) && f.kernelS.len % 4 == 0 &&
  f.sects.all f.sectOk && noPair (fun a b => rangesMeet a.off a.len b.off b.len) (f.sects.filter fun x => x.count ≠ 0)

/-! ### Checks 8 to 12 -/

/-- Table 3.3. -/
def classFits (cls mem : Nat) : Bool :=
  match cls with
  | 0 => mem == 0 || mem == 1 || mem == 2 || mem == 3 || mem == 5
  | 1 => mem == 0 || mem == 1 || mem == 5 || mem == 6
  | 2 => mem == 0 || mem == 5
  | _ => mem == 4

/-- Bytes of a handle's extent in scratch: twice its SIZE where it is versioned (R55). -/
def HandleRec.span (h : HandleRec) : Nat := h.size * 256 * (if h.cls = 1 then 2 else 1)

/-- Two scratch extents share a byte. -/
def HandleRec.meets (a b : HandleRec) : Bool := decide (a.mem ≤ 4) && a.mem == b.mem && rangesMeet (a.off * 64) a.span (b.off * 64) b.span

/-- R53 to R55 for one handle. -/
def HandleRec.ok (h : HandleRec) : Bool :=
  decide (1 ≤ h.size) && classFits h.cls h.mem && (if h.mem ≤ 4 then decide (h.off * 64 + h.span ≤ memSize h.mem) else h.off == 0)

/-- Check 8. -/
def handlesOk (l : List HandleRec) : Bool :=
  l.all (·.ok) && noPair (fun a b => a.h == b.h) l && noPair (fun a b => a.meets b && !(a.cls == 0 && b.cls == 0)) l

/-- The PORT of a data edge is one of its target task's; of every edge record, those in no task's range too (check 9). -/
def edgePortOk (tasks : List TaskRec) (e : EdgeRec) : Bool :=
  e.port == 31 || decide (e.port < ((tasks[e.target]?).map (·.ports)).getD 0)

/-- Check 9 on one task and its edges. -/
def taskIndexOk (f : ImageFile) (edges : List EdgeRec) (t : TaskRec) : Bool :=
  !t.indexBad f.edges f.cores (le16 f.hd 60).toNat f.kernelS.len &&
  ((edges.drop t.edgeFirst).take t.edgeCount).all fun e =>
    (e.port == 31 || decide (e.out < t.nout)) &&
    (!e.cond || decide (e.pred < t.npred))

/-- Check 9; the LAYER of a region is held to the limit of a task's (Table 3.1). -/
def indicesOk (f : ImageFile) (tasks : List TaskRec) (edges : List EdgeRec) (regions : List RegionRec) : Bool :=
  edges.all (fun e => decide (e.target < f.tasks) && edgePortOk tasks e) && tasks.all (taskIndexOk f edges) &&
  regions.all fun r => decide (r.layer < (le16 f.hd 60).toNat) || r.layer == 0xFF

/-- The edges of the tasks, each as its producer delivers it: producer and edge. -/
def ownedEdges (tasks : List TaskRec) (edges : List EdgeRec) : List (Nat × EdgeRec) :=
  tasks.zipIdx.flatMap fun t => ((edges.drop t.1.edgeFirst).take t.1.edgeCount).map fun e => (t.2, e)

/-- The entry ports of an image: every data port that no edge feeds (R61). -/
def entryPortsOf (tasks : List TaskRec) (owned : List (Nat × EdgeRec)) : List (Nat × Nat) :=
  tasks.zipIdx.flatMap fun t =>
    ((List.range t.1.ports).filter fun p => !owned.any fun e => e.2.target == t.2 && e.2.port == p).map fun p => (t.2, p)

/-- Check 10 (R61). -/
def portsOk (f : ImageFile) (tasks : List TaskRec) (owned : List (Nat × EdgeRec)) : Bool :=
  noPair (fun a b => a.2.port != 31 && a.2.target == b.2.target && a.2.port == b.2.port) owned &&
  (tasks.zipIdx.all fun t => t.1.dep == t.1.ports + (owned.filter fun e => e.2.port == 31 && e.2.target == t.2).length) &&
  (entryPortsOf tasks owned).length == f.entries

/-- The tasks that remain when every task without an edge from a remaining task is removed, over and over; fuel. -/
def peel (owned : List (Nat × EdgeRec)) : Nat → List Nat → List Nat
  | 0, l => l
  | k + 1, l => peel owned k (l.filter fun t => owned.any fun e => e.2.target == t && l.contains e.1)

/-- Check 11: no cycle, self-edges included. -/
def acyclic (n : Nat) (owned : List (Nat × EdgeRec)) : Bool := (peel owned n (List.range n)).isEmpty

/-- Check 12 (R62). -/
def regionsOk (f : ImageFile) (l : List RegionRec) : Bool :=
  (bit f.flags 0 || l.isEmpty) &&
  (l.all fun r => r.flow != 0 && decide (1 ≤ r.len) && decide (r.off + r.len ≤ 131072) && decide (r.mask.toNat < 2 ^ f.cores)) &&
  noPair (fun a b => a.mask &&& b.mask != 0 && rangesMeet a.off a.len b.off b.len) l

/-- The image as the block keeps it. -/
def ImageFile.image (f : ImageFile) (addr : Nat) (bs : List Byte) : Image :=
  let n4 (o : Nat) : Nat := (le32 f.hd o).toNat
  let tasks := (f.taskS.records bs).map TaskRec.ofBytes
  let edges := (f.edgeS.records bs).map EdgeRec.ofBytes
  { addr := addr, detReq := bit f.flags 1, training := bit f.flags 0, tasks := f.tasks, cores := f.cores, entries := f.entries
    boundA := (le64 f.hd 32).toNat, boundF := n4 40, commitTime := n4 44, peakTokens := n4 48, peakTasks := n4 52
    spillLimit := n4 56, layers := (le16 f.hd 60).toNat, taskOff := f.taskS.off, kernelOff := f.kernelS.off
    kernelLen := f.kernelS.count, edgeCount := f.edges, buildId := le64 f.hd 88
    handles := (f.handleS.records bs).map HandleRec.ofBytes, regions := (f.regionS.records bs).map RegionRec.ofBytes
    edges := edges, roots := (tasks.zipIdx.filter fun t => t.1.dep == 0).map (·.2)
    entryPorts := entryPortsOf tasks (ownedEdges tasks edges) }

/-! ### Room shared with other contexts (R63, R71, R98, R124, R171, R27) -/

/-- Blocks of edge memory that an image takes, in entries (R71). -/
def Image.edgeRoom (im : Image) : Nat := roundUp (im.edgeCount + im.roots.length) 64

/-- What an image still holds once its context is torn down: its edge and instruction memory are free (R63, R71). -/
def Image.tornPart (im : Image) : Image := { im with edgeCount := 0, roots := [], kernelLen := 0 }

/-- The image for which a slot takes room: its image in force, or the one that replaces it once its banks are on, which has
passed its checks and whose room later installs leave to it (R65, R135). -/
def Ctx.roomImage (c : Ctx) : Option Image := if c.installWait then c.pending.map (·.1) else c.image

/-- The image that takes edge and instruction memory for a slot, with its kernel place and pitch. -/
def State.heldImage (s : State) (i : Slot) : List (Image × Nat × Pitch) :=
  let c := s.ctx i
  match c.roomImage with
  | some im =>
    if c.state = .loaded || c.state = .arriving || c.state = .opened then
      [(im, if c.installWait then (s.bel.waitAt.find i.val).getD 0 else c.kernBase, c.policy.pitch)] else []
  | none => []

/-- The images whose edge and instruction memory are in use, but the one that a new image of slot i replaces; those of closed
contexts are in use until the next Bell. -/
def State.otherImages (s : State) (i : Slot) : List (Image × Nat × Pitch) :=
  allSlots.flatMap fun j => (if j = i then [] else s.heldImage j) ++ (s.ctx j).toFree

/-- Check 14: free entries of edge memory for slot i. -/
def State.edgeFree (s : State) (i : Slot) : Nat := 1048576 - natSum ((s.otherImages i).map fun x => x.1.edgeRoom)

/-- The lowest free place for a kernel of slot i: a multiple of 256 bytes (R63). Image core 0 holds the kernel of every
image of its pitch. What has given up its kernel section bars no place. -/
def State.kernelPlace (s : State) (i : Slot) (len : Nat) : Option Nat :=
  let used := (s.otherImages i).filter fun x => x.2.2 == (s.ctx i).policy.pitch && x.1.kernelLen != 0
  ((List.range 257).map (256 * ·)).find? fun a => decide (a + len ≤ 65536) && !used.any fun x => rangesMeet a len x.2.1 x.1.kernelLen

/-- The images of the other resident contexts of the pitch, with those whose install waits for its banks. -/
def State.pitchImages (s : State) (i : Slot) : List Image :=
  ((s.residents (s.ctx i).policy.pitch).filter (· != i)).filterMap fun j => (s.ctx j).roomImage

/-- Check 6: the mode of the pitch's other images. -/
def State.modeOk (s : State) (i : Slot) (im : Image) : Bool := (s.pitchImages i).all fun o => o.training == im.training

/-- R98: scratch extents of different contexts of a pitch are disjoint. -/
def State.extentsOk (s : State) (i : Slot) (im : Image) : Bool :=
  (s.pitchImages i).all fun o => !im.handles.any fun a => o.handles.any a.meets

/-- R124: the handle entries of the pitch's contexts fit in every image core. -/
def State.handleRoom (s : State) (i : Slot) (im : Image) : Bool :=
  (List.range im.cores).all fun c => decide (im.handles.length + natSum ((s.pitchImages i).map fun o => if c < o.cores then o.handles.length else 0) ≤ 256)

/-- Regions of an image on one image core. -/
def Image.regionsOn (im : Image) (c : Nat) : Nat := (im.regions.filter fun r => r.mask.getLsbD c).length

/-- R171: the regions of the pitch's contexts fit in every image core. -/
def State.regionRoom (s : State) (i : Slot) (im : Image) : Bool :=
  (List.range im.cores).all fun c => decide (im.regionsOn c + natSum ((s.pitchImages i).map fun o => o.regionsOn c) ≤ 1024)

/-- Granule entries of an image's versioned handles in scratch: they exist in each image core (R27, R55). -/
def Image.granules (im : Image) : Nat :=
  im.cores * natSum ((im.handles.filter fun h => h.cls == 1 && decide (h.mem ≤ 4)).map fun h => ceilDiv (h.size * 256) 4096)

/-- Granule entries of a binding (R302). -/
def Binding.granules (b : Binding) : Nat := if !b.versioned then 0 else if b.host then 1 else ceilDiv b.len 4096

/-- Granule entries that a context holds. -/
def Ctx.granules (c : Ctx) : Nat :=
  natSum (c.bindings.map Binding.granules) + match c.roomImage with | some im => im.granules | none => 0

/-- Free granule entries (R27): those of contexts and of evicted contexts' tensors are taken. -/
def State.granulesFree (s : State) : Nat :=
  1048576 - natSum (allSlots.map fun i => (s.ctx i).granules) - natSum (s.mkt.parked.map fun p => natSum (p.2.bindings.map Binding.granules))

/-- Checks 14 and 15 of Table 3.7. -/
def State.roomCheck (s : State) (i : Slot) (im : Image) : Option W16 :=
  if im.edgeCount + im.roots.length > s.edgeFree i then some 0xA20D
  else if (s.kernelPlace i im.kernelLen).isNone then some 0xA20E
  else none

/-- Checks 2 to 5 of R421. -/
def State.shareCheck (s : State) (i : Slot) (im : Image) : Option W16 :=
  let old := match (s.ctx i).roomImage with | some o => o.granules | none => 0
  if !s.extentsOk i im then some 0x3113
  else if !s.handleRoom i im then some 0xA20F
  else if !s.regionRoom i im then some 0xA212
  else if im.granules > s.granulesFree + old then some 0x8105
  else none

/-- The checks made again at the installing Bell (R65). -/
def State.installCheck (s : State) (i : Slot) (im : Image) : Option W16 := (s.roomCheck i im).or (s.shareCheck i im)

/-! ### Loading and checking (R64) -/

/-- Checks 3 to 15 and R421 on an image whose CRC is good, with its bytes. -/
def State.checkImage (s : State) (i : Slot) (addr : Nat) (f : ImageFile) (bs : List Byte) : Except W16 Image :=
  if f.reserved bs then .error 0xA204 else
  if !f.layoutOk then .error 0xA205 else
  if f.cores > (maskCores (s.pit (s.ctx i).policy.pitch).mask).length then .error 0xA206 else
  let im := f.image addr bs
  let tasks := (f.taskS.records bs).map TaskRec.ofBytes
  let owned := ownedEdges tasks im.edges
  if !s.modeOk i im then .error 0xA207 else
  if im.detReq && !s.cfg.det then .error 0xA208 else
  if !handlesOk im.handles then .error 0xA209 else
  if !indicesOk f tasks im.edges im.regions then .error 0xA205 else
  if !portsOk f tasks owned then .error 0xA20A else
  if !acyclic f.tasks owned then .error 0xA20B else
  if !regionsOk f im.regions then .error 0xA20C else
  if im.peakTokens > 65536 || im.peakTasks > 262144 then .error 0xA205 else
  match s.roomCheck i im with
  | some code => .error code
  | none =>
    if (im.handles.filter fun h => h.cls == 1 && h.mem == 6).length > 32 then .error 0x8107 else
    match s.shareCheck i im with
    | some code => .error code
    | none => .ok im

/-- Every check of Table 3.7 and R421 on the image at a device address. -/
def State.loadCheck (s : State) (i : Slot) (addr : Nat) : Except W16 Image :=
  let f := ImageFile.ofHeader (s.devRead addr 128)
  match f.identity with
  | some code => .error code
  | none =>
    let bs := s.devRead addr f.len
    if !crcGood bs then .error 0xA203 else s.checkImage i addr f bs

/-! ### Install and free (R63, R65, R124, R171, R172, R200, R246) -/

/-- The handle-table entries, region state and ring inboxes of a slot leave a core. -/
def Core.dropImage (k : Core) (i : Slot) : Core :=
  { k with handles := k.handles.filter fun e => e.slot != i, regions := k.regions.filter fun r => r.slot != i
           inboxes := k.inboxes.filter fun b => b.slot != i }

/-- The ring inboxes that an image declares (R246); one that the slot had keeps its generation and epoch. -/
def Image.inboxes (im : Image) (i : Slot) (old : List Inbox) : List Inbox :=
  (im.handles.filter fun h => decide (240 ≤ h.h) && h.mem == 1 && h.cls == 0).map fun h =>
    let o := old.find? fun b => b.slot == i && b.num == h.h - 240
    { slot := i, num := h.h - 240, cap := h.size * 4, base := h.off * 64
      gen := (o.map (·.gen)).getD 0, epoch := (o.map (·.epoch)).getD 0 }

/-- The regions of an image on image core n, at G = −40 with a zero base (R172). -/
def Image.regionStates (im : Image) (i : Slot) (n : Nat) : List RegSt :=
  (im.regions.zipIdx.filter fun r => r.1.mask.getLsbD n).map fun r =>
    { slot := i, idx := r.2, layer := r.1.layer, flow := r.1.flow, off := r.1.off, len := r.1.len }

/-- An image enters image core n: kernel bytes, handle table, regions with zero base and delta, ring inboxes. -/
def Core.loadImage (k : Core) (im : Image) (i : Slot) (n base : Nat) (kernel : List Byte) : Core :=
  let rs := im.regionStates i n
  let ins := im.inboxes i k.inboxes
  let k := k.dropImage i
  { k with
    imem := k.imem.writeBytes base kernel
    handles := k.handles ++ im.handles.map fun h => { slot := i, h := h.h, mem := h.mem, cls := h.cls, base := h.off, size := h.size }
    regions := k.regions ++ rs
    inboxes := k.inboxes ++ ins
    delta := rs.foldl (fun m r => m.clear (8 * r.off) (8 * r.len)) k.delta
    base := rs.foldl (fun m r => m.clear (8 * r.off) (8 * r.len)) k.base }

/-- The kernel section of an image in device memory. -/
def State.kernelBytes (s : State) (im : Image) : List Byte := s.devRead (im.addr + im.kernelOff) im.kernelLen

/-- Granules of versioned handles in scratch belong to the image; those of bindings stay (R302). -/
def VerKey.offChip : VerKey → Bool
  | .offBlock _ => true
  | .scratch _ _ => false

/-- Every core rid of a slot's image. -/
def State.dropImage (s : State) (i : Slot) : State := { s with cores := s.cores.map fun k => k.dropImage i }

/-- The kernel section placed again in the image's cores (R63): RESUME and the core copy of a substitution use it too. -/
def State.placeKernel (s : State) (i : Slot) (im : Image) (base : Nat) : State :=
  let kernel := s.kernelBytes im
  let s := ((s.pitchCores (s.ctx i).policy.pitch).take im.cores).foldl (fun s c => s.modCore c fun k => { k with imem := k.imem.writeBytes base kernel }) s
  s.modCtx i fun c => { c with kernBase := base }

/-- The handle-table entries and the rows that a context owns in the shared stores, read again from its image in device
memory (R337): after MEM_UE, before a RESUME takes effect. -/
def State.reloadRows (s : State) (i : Slot) (im : Image) : State :=
  let f := ImageFile.ofHeader (s.devRead im.addr 128)
  let new := f.image im.addr (s.devRead im.addr f.len)
  let s := ((s.pitchCores (s.ctx i).policy.pitch).take im.cores).foldl (fun s c => s.modCore c fun k => { k with
    handles := (k.handles.filter fun e => e.slot != i) ++
      new.handles.map fun h => { slot := i, h := h.h, mem := h.mem, cls := h.cls, base := h.off, size := h.size } }) s
  (s.countImage i im.addr f.len).modCtx i fun c => { c with image := some new }

/-- An image that has passed its checks is loaded (R65), at kernel place `base`. -/
def State.loadImage (s : State) (i : Slot) (im : Image) (base : Nat) : State :=
  let kernel := s.kernelBytes im
  let keep := s.cores
  let s := s.dropImage i
  let cores := (s.pitchCores (s.ctx i).policy.pitch).take im.cores
  let s := cores.zipIdx.foldl (fun s c =>
    s.modCore c.1 fun k => ({ k with inboxes := k.inboxes ++ ((keep.get c.1).inboxes.filter fun b => b.slot == i) } : Core).loadImage im i c.2 base kernel) s
  s.modCtx i fun c => { c with
    image := some im, kernBase := base, ver := c.ver.filter fun v => v.1.offChip, statRun := [], statCom := []
    fmt := (List.range im.layers).map fun l => (l, {}) }

/-- The install of a pending image at its Bell: the room is checked again, then it replaces the image in force. -/
def State.install (s : State) (i : Slot) : State :=
  match (s.ctx i).pending with
  | none => s
  | some (im, comp) =>
    let s := s.modCtx i fun c => { c with pending := none, installWait := false }
    match s.installCheck i im, s.kernelPlace i im.kernelLen with
    | none, some base =>
      let s := s.loadImage i im base
      (s.modCtx i fun c => { c with state := if c.state = .opened then .loaded else c.state, reload := false }).finish comp 0
    | some code, _ => s.finish comp code
    | none, none => s.finish comp 0xA20E

/-- At a Bell the stores of images of closed slots are free (Table 5.2). -/
def State.freeClosed (s : State) : State :=
  allSlots.foldl (fun s i =>
    if (s.ctx i).toFree.isEmpty then s else
    let s := if (s.ctx i).image.isNone then s.dropImage i else s
    s.modCtx i fun c => { c with toFree := [] }) s

end Sys2Proof.Machine
end

