-- ==== Sys2Proof/Machine/Rings.lean ====
section
/-! DEFINITION. Sys2Proof/Machine/Rings.lean: the host rings: polls of doorbell records (R293), the shadow status (R295),
Tallies on their way to the host (R308), interrupts (R309), and the taking of descriptors (R296, R297). -/

namespace Sys2Proof.Machine

/-! ### Doorbell polls (R291, R293) -/

/-- A free-running 31-bit index that lies at or past another. -/
def reached (head j : Nat) : Bool := (head + 2 ^ 31 - j) % 2 ^ 31 < 2 ^ 30

/-- Entries of a submission ring. -/
def State.sqSize (s : State) : Ring → Nat
  | .admin => rsize s.hst.rsize 0
  | .slot i => 2 ^ (s.ctx i).setup.sqLog
/-- Base of a submission ring. -/
def State.sqBase (s : State) : Ring → Nat
  | .admin => s.hst.asq.toNat
  | .slot i => (s.ctx i).setup.sqBase
/-- The generation that the ring's doorbell record must carry. -/
def State.dbGen (s : State) : Ring → BitVec 12
  | .admin => s.hst.agen
  | .slot i => (s.ctx i).setup.dbGen
/-- The address of the ring's doorbell record. -/
def State.dbAddr (s : State) : Ring → Nat
  | .admin => s.hst.adb.toNat
  | .slot i => (s.ctx i).doorbell

/-- A slot whose state reads descriptors (Table 5.1). -/
def Ctx.reads (c : Ctx) : Bool := c.state == .opened || c.state == .loaded

/-- The armed records: the admin record first, then the slots in ascending order; none while a lost supply parks the host port. -/
def State.armed (s : State) : List Ring :=
  if s.pwr.lost then [] else (if s.hst.en then [Ring.admin] else []) ++ (allSlots.filter fun i => (s.ctx i).reads).map Ring.slot

/-- Entries in use between two free-running indices of n bits. -/
def span (bits newer older : Nat) : Nat := (newer + 2 ^ bits - older) % 2 ^ bits

/-- SLOT of a ring in records: its context slot, or none for the admin ring. -/
def ringSlot : Ring → Nat
  | .admin => 0x7F
  | .slot i => i.val

/-- DATA of a host-port event of Table 16.5. -/
def ringData (r : Ring) (idx : Nat) : W64 := BitVec.ofNat 64 (idx % 2 ^ 32 ||| ringSlot r <<< 32)

/-- A poll of one record. -/
def State.pollRing (s : State) (r : Ring) : State :=
  let s := ((s.readReq true (s.dbAddr r) 64 (ringWho r)).count 0x1A42 1).hang oHost 0 0x60 (ringSlot r) (ringData r (s.ringOf r).head)
  let w (k : Nat) : W64 := le64 (s.hostRead (s.dbAddr r) 64) (8 * k)
  let x := s.ringOf r
  let adm := r == .admin
  if fld (w 0) 63 52 ≠ (s.dbGen r).toNat then (s.modRing r fun x => { x with stalePolls := x.stalePolls + 1 }).count 0x1A43 1
  else
    let tail := fld (w 0) 31 0
    let head := fld (w 1) 30 0
    let bad := fld (w 0) 51 32 ≠ 0 || fld (w 1) 63 31 ≠ 0 || span 32 tail x.head > s.sqSize r || span 31 x.cqTail head > s.cqSize r ||
      (adm && (fld (w 2) 63 31 ≠ 0 || fld (w 3) 63 31 ≠ 0 || span 31 s.hst.evTail (fld (w 2) 30 0) > rsize s.hst.rsize 16 ||
        span 31 s.hst.tlTail (fld (w 3) 30 0) > rsize s.hst.rsize 24))
    if bad then s.report { code := 0x8108, origin := oCtl, slot := ringSlot r }
    else
      let s := s.modRing r fun x => { x with tail := tail, cqHead := head }
      let s : State := if adm then { s with hst := { s.hst with evHead := fld (w 2) 30 0, tlHead := fld (w 3) 30 0 } } else s
      if tail = x.tail then s else { s with hst := { s.hst with advanced := true } }

/-- A Tally that waits goes to the ring while that has room (R289, R308); fuel. -/
def State.tlDrain (s : State) : Nat → State
  | 0 => s
  | k + 1 =>
    match s.ev.tallies with
    | [] => s
    | t :: rest =>
      let n := rsize s.hst.rsize 24
      if !s.hst.en || s.pwr.lost || span 31 s.hst.tlTail s.hst.tlHead ≥ n then s else
      let s : State := { s with ev := { s.ev with tallies := rest } }
      let s := s.hostWrite (s.hst.tlq.toNat + 64 * (s.hst.tlTail % n)) t .tally
      let s : State := { s with hst := { s.hst with tlTail := (s.hst.tlTail + 1) % 2 ^ 31 } }
      (s.taken 7 0).tlDrain k

/-- A poll (R293): every armed record, then what waited for room in the event and Tally rings. -/
def State.poll (s : State) : State :=
  let s : State := { s with hst := { s.hst with advanced := false } }
  ((s.armed.foldl State.pollRing s).evDrain 1026).tlDrain 1026

/-! ### Tallies (R308) -/

/-- A Tally is queued, or dropped and counted at a full egress. -/
def State.queueTally (s : State) (t : List Byte) : State :=
  if s.ev.tallies.length ≥ 1024 then { (s.count 0x1A47 1) with ev := { s.ev with tlost := s.ev.tlost + 1 } }
  else ({ s with ev := { s.ev with tallies := s.ev.tallies ++ [t] } } : State).tlDrain 1

/-- TALLY_LOST reports the Tallies dropped (R308). -/
def State.tallyLoss (s : State) : State :=
  if s.ev.tlost = 0 then s else ({ s with ev := { s.ev with tlost := 0 } } : State).note 0x810B s.ev.tlost

/-! ### The shadow status (R295) -/

/-- BEL.STATUS (Table 2.1). -/
def State.belStatus (s : State) : W32 :=
  BitVec.ofNat 32 (b2n s.bel.running ||| b2n s.bel.stopped <<< 1 ||| b2n s.bel.locked <<< 2 |||
    b2n (allSlots.any fun i => (s.ctx i).inDoubt) <<< 3 ||| b2n s.bel.markerMissed <<< 4)

/-- The 64 bytes of the shadow status (Table 13.4). -/
def State.shadowBytes (s : State) (sleeping : Bool) : List Byte :=
  leBytes 4 (b2n sleeping) ++ leBytes 4 s.hst.shadowSeq.toNat ++ leBytes 8 s.bel.count.toNat ++ leBytes 8 s.clk.time ++
  leBytes 4 s.hst.evTail ++ leBytes 4 s.hst.tlTail ++ leBytes 4 s.belStatus.toNat ++ List.replicate 28 0

/-- The shadow status is written, while HST.CTRL.EN is 1. -/
def State.writeShadow (s : State) (sleeping : Bool) : State :=
  if !s.hst.en then s else
  let s : State := { s with hst := { s.hst with shadowSeq := s.hst.shadowSeq + 1 } }
  s.hostWrite s.hst.shadow.toNat (s.shadowBytes sleeping) (.shadow sleeping)

/-! ### Interrupts (R309) -/

/-- The vector of a completion ring whose interrupts are enabled. -/
def State.compVec (s : State) : Ring → Option (BitVec 11)
  | .admin => if bit s.hst.msixB 16 then some (s.hst.msixA.extractLsb' 0 11) else none
  | .slot i => if (s.ctx i).setup.irqEn then some (s.ctx i).setup.vector else none
/-- The vector of the event ring. -/
def State.evVec (s : State) : Option (BitVec 11) := if bit s.hst.msixB 17 then some (s.hst.msixA.extractLsb' 16 11) else none
/-- The vector of the Tally ring. -/
def State.tlVec (s : State) : Option (BitVec 11) := if bit s.hst.msixB 18 then some (s.hst.msixB.extractLsb' 0 11) else none

/-- The entry whose write at an address has been acknowledged, as the index past it. -/
def entryPast (addr base size n tail : Nat) : Nat := tail + 2 ^ 31 - (tail + n * size - 1 - (addr - base) / size) % n

/-- A new entry of a ring has been acknowledged: at most one vector a period, a later entry is carried over, and of several
the one of the highest index, in whatever order they were acknowledged. -/
def Irq.ack (q : Irq) (vec : Option (BitVec 11)) (j : Nat) : Option (BitVec 11) × Irq :=
  match vec with
  | none => (none, q)
  | some v =>
    let last := match q.carry with | some k => if reached (j % 2 ^ 31) k then j % 2 ^ 31 else k | none => j % 2 ^ 31
    if q.done then (none, { q with carry := some last }) else (some v, { q with done := true })

/-- What a Bell does to a ring's interrupt: the carried entry raises it unless the host's head has reached it, and that
raise counts as the new period's. -/
def Irq.bell (q : Irq) (vec : Option (BitVec 11)) (head : Nat) : Option (BitVec 11) × Irq :=
  match q.carry with
  | some j => if reached head j then (none, {}) else (vec, { done := vec.isSome })
  | none => (none, {})

/-- A vector is requested where there is one. -/
def State.msi? (s : State) : Option (BitVec 11) → State
  | some v => s.msi v
  | none => s

/-- A completion entry has been acknowledged; one of an earlier ring set-up raises nothing in the ring in force. -/
def State.ackComp (s : State) (r : Ring) (addr : Nat) : State :=
  let x := s.ringOf r
  if addr < s.cqBase r || s.cqBase r + 32 * s.cqSize r ≤ addr then s else
  let a := x.irq.ack (s.compVec r) (entryPast addr (s.cqBase r) 32 (s.cqSize r) x.cqTail)
  (s.modRing r fun x => { x with irq := a.2 }).msi? a.1

/-- An event record has been acknowledged; one that tears down a context raises the vector whatever the period. -/
def State.ackEvent (s : State) (torn : Bool) (addr : Nat) : State :=
  if torn then s.msi? s.evVec else
  let a := s.hst.evIrq.ack s.evVec (entryPast addr s.hst.evq.toNat 64 (rsize s.hst.rsize 16) s.hst.evTail)
  ({ s with hst := { s.hst with evIrq := a.2 } } : State).msi? a.1

/-- A Tally has been acknowledged. -/
def State.ackTally (s : State) (addr : Nat) : State :=
  let a := s.hst.tlIrq.ack s.tlVec (entryPast addr s.hst.tlq.toNat 64 (rsize s.hst.rsize 24) s.hst.tlTail)
  ({ s with hst := { s.hst with tlIrq := a.2 } } : State).msi? a.1

/-- The interrupts of a Bell: the period's allowance of every ring is new, and carried entries raise their vectors. -/
def State.bellIrqs (s : State) : State :=
  let s := (Ring.admin :: allSlots.map Ring.slot).foldl (fun s r =>
    let x := s.ringOf r
    if x.irq = {} then s else
    let a := x.irq.bell (s.compVec r) x.cqHead
    (s.modRing r fun x => { x with irq := a.2 }).msi? a.1) s
  let e := s.hst.evIrq.bell s.evVec s.hst.evHead
  let s := ({ s with hst := { s.hst with evIrq := e.2 } } : State).msi? e.1
  let t := s.hst.tlIrq.bell s.tlVec s.hst.tlHead
  ({ s with hst := { s.hst with tlIrq := t.2 } } : State).msi? t.1

/-! ### Descriptors (R296, R297, R299) -/

/-- Completions that a ring still owes: of descriptors that have been taken, other than a SUBMIT_SLICE, whose handling ends with
its slice (R296). -/
def State.owed (s : State) (r : Ring) : Bool :=
  (s.ev.held.any fun h => h.comp.ring == r && h.comp.type != 1) ||
  (allSlots.any fun i =>
    let c := s.ctx i
    (match c.pending with | some p => p.2.ring == r | none => false) ||
    (match c.swapIn with | some w => (match w.comp with | some k => k.ring == r | none => false) | none => false) ||
    (match c.evict with | some w => (match w.comp with | some k => k.ring == r | none => false) | none => false)) ||
  (allPitches.any fun p => match (s.pit p).install with | some w => w.comp.ring == r | none => false) ||
  (match s.hst.fence with | some f => f.1.ring == r | none => false)

/-- The handling of the previous descriptor of a ring is not finished; the admin ring does not wait for it (R297). -/
def State.ringBusy (s : State) : Ring → Bool
  | .admin => false
  | .slot i => (s.ctx i).desc.isSome || s.owed (.slot i)

/-- The SUBMIT_SLICE that a context holds is at the head of its ring: no SET_POLICY has put a new ring in its place (R306). -/
def Ctx.descAtHead (c : Ctx) : Bool := match c.desc with | some d => d.comp.setup == c.ringSetups | none => false

/-- The ring may be read at all (Table 5.1, R303, R310), the host port not being parked by a lost supply (R377). -/
def State.ringReads (s : State) : Ring → Bool
  | .admin => s.hst.en && !s.hst.halt && s.hst.fence.isNone && !s.pwr.lost
  | .slot i => (s.ctx i).reads && !s.pwr.lost

/-- A completion entry can be reserved (R296). -/
def State.cqRoom (s : State) (r : Ring) : Bool := span 31 (s.ringOf r).cqTail (s.ringOf r).cqHead < s.cqSize r

/-- The address of the descriptor at an index of a ring. -/
def State.descAddr (s : State) (r : Ring) (idx : Nat) : Nat := s.sqBase r + 64 * (idx % s.sqSize r)

/-- The 64 bytes of the descriptor at an index of a ring. -/
def State.descAt (s : State) (r : Ring) (idx : Nat) : List Byte := s.hostRead (s.descAddr r idx) 64

/-- The completion of a descriptor: the reserved index, and what the entry copies. -/
def compOf (r : Ring) (cq idx : Nat) (d : List Byte) : CompRef :=
  { ring := r, idx := cq, sqIndex := idx, user := le64 d 8, type := (d.headD 0).toNat, slot := ((d[2]?).getD 0).toNat % 128 }

/-- The completion of a descriptor of a ring as it is set up (R298, R306). -/
def State.refOf (s : State) (r : Ring) (cq idx : Nat) (d : List Byte) : CompRef :=
  { compOf r cq idx d with base := s.cqBase r, size := s.cqSize r, setup := s.setupOf r }

/-- While the block is stopped-now, only DEBUG descriptors of the admin ring are taken: R355 and Table 16.4 give them an
effect there (log entry 47). -/
def State.debugOnly (s : State) (r : Ring) (d : List Byte) : Bool :=
  s.dbg.stopped && !s.errs.fatal && r == .admin && (d.headD 0).toNat == 9

/-- The type byte of a descriptor. -/
def dType (d : List Byte) : Nat := (d.headD 0).toNat
/-- A byte of a descriptor. -/
def dByte (d : List Byte) (i : Nat) : Nat := ((d[i]?).getD 0).toNat
/-- The slot that a descriptor names, none for 96 to 127. -/
def dSlot (d : List Byte) : Option Slot := slot? (dByte d 2 % 128)

/-- Breaches of R6 in the 64 bytes of a descriptor: a reserved TYPE, header field, body field or encoding (R299 to R306, R357).
The SET_POLICY parameter block and the parameter records of SUBMIT_SLICE are checked where they are read. Body bytes to which
R304 (KILL: 17 to 23 and 32 to 63) and R305 (READ_COUNTERS: 29 to 63) give no meaning count as reserved, as in the other
descriptors, though neither rule calls them so (DESIGN CHOICE, log entry 75). -/
def descReserved (d : List Byte) : Bool :=
  let z (lo hi : Nat) : Bool := zeroBytes d lo hi
  let b := dByte d
  !(z 1 2 && z 3 8 && decide (b 2 < 128)) ||
  match b 0 with
  | 1 => !z 36 64
  | 2 => !(decide (b 24 ≤ 1) && decide (b 25 < 16) && z 26 64)
  | 3 => !(decide (b 20 ≤ 2) && decide (b 21 ≤ 1) && z 22 24 && z 42 48 && z 56 64)
  | 4 => !(decide (b 16 ≤ 1) && z 17 64)
  | 5 => !(decide (b 16 ≤ 2) && z 17 24 && z 32 64)
  | 6 => !z 16 64
  | 7 => !(decide (b 28 ≤ 1) && z 29 64)
  | 8 => !(decide (b 16 ≤ 4) && z 17 20 && z 58 64 && z 28 32 && decide (b 25 % 256 / 64 = 0))
  | 9 => !(decide (1 ≤ b 16) && decide (b 16 ≤ 9) && decide (b 17 < 8) && (b 16 != 4 || decide (b 50 ≤ 8)) && z 51 64)
  | _ => true

/-- The row of the opcode table that a descriptor belongs to: 16 × TYPE and its KIND, OP or resolution; none for a
reserved TYPE or operation. -/
def rowOf (d : List Byte) : Option Nat :=
  let b := dByte d
  match b 0 with
  | 1 => some 0x10
  | 2 => if b 24 ≤ 1 then some (0x20 + b 24) else none
  | 3 => if b 20 ≤ 2 then some (0x30 + b 20) else none
  | 4 => some 0x40
  | 5 => if b 16 = 0 then some 0x50 else if b 16 ≤ 2 then some 0x51 else none
  | 6 => some 0x60
  | 7 => some 0x70
  | 8 => if b 16 ≤ 4 then some (0x80 + b 16) else none
  | 9 => if 1 ≤ b 16 && b 16 ≤ 9 then some (0x90 + b 16) else none
  | _ => none

/-- What a descriptor reads besides itself, at addresses that it names: in host memory or not, first byte and length. -/
def descReads (d : List Byte) : List (Bool × Nat × Nat) :=
  match rowOf d with
  | some 0x10 => [(true, (le64 d 24).toNat, 32 * (le16 d 32).toNat + 16 * (le16 d 34).toNat)]
  | some 0x20 => [(false, (le64 d 16).toNat, 128)]
  | some 0x21 => [(false, (le64 d 16).toNat, 64)]
  | some 0x80 => [(true, (le64 d 40).toNat, 64)]
  | some 0x81 => [(true, (le64 d 40).toNat, 64)]
  | _ => []

/-- A descriptor, or what it reads, lies in a unit whose write is outstanding: its read waits (R401). -/
def State.readsWait (s : State) (r : Ring) (idx : Nat) (d : List Byte) : Bool :=
  s.unitBusy true (s.descAddr r idx) 64 || (descReads d).any fun x => s.unitBusy x.1 x.2.1 x.2.2

/-- The descriptor that the block takes next from a ring, with its completion, and the state with the completion reserved
and, on the admin ring, the head moved on; none where no descriptor can be taken. -/
def State.takeDesc (s : State) (r : Ring) : Option (List Byte × CompRef × State) :=
  let x := s.ringOf r
  let d := s.descAt r x.head
  if !(s.runs || s.debugOnly r d) || !s.ringReads r || x.head = x.tail || s.ringBusy r || !s.cqRoom r || s.readsWait r x.head d then none else
  let c := s.refOf r x.cqTail x.head d
  let s := (s.readReq true (s.descAddr r x.head) 64 (ringWho r)).modRing r fun x => { x with
    cqTail := (x.cqTail + 1) % 2 ^ 31, head := if r == .admin then (x.head + 1) % 2 ^ 32 else x.head }
  some (d, c, s.hang oHost 0 0x61 (ringSlot r) (ringData r x.head))

/-- A descriptor outside the rights of its ring (Table 5.9, R299, R301, R305, R357). -/
def State.unprivileged (s : State) (r : Ring) (d : List Byte) : Bool :=
  let t := dByte d 0
  match r with
  | .admin => t == 1
  | .slot i => dByte d 2 != i.val || t == 6 || t == 8 || (t == 7 && dByte d 28 == 1) || (t == 2 && dByte d 24 == 1) ||
      (t == 9 && (decide (5 ≤ dByte d 16) || !(s.ctx i).policy.debugAllowed || (dByte d 16 == 4 && [4, 6, 7, 8].contains (dByte d 50))))

/-- The checks of R299 in their order, a SLOT of 96 to 127 among those of range; `states` are the slot states that take the descriptor, none for one that names no
context; `arg` is the check of its fields. -/
def State.descCheck (s : State) (r : Ring) (d : List Byte) (states : Option (List SlotState)) (arg : State → Slot → Bool) : Option W16 :=
  if descReserved d then some 0x8101
  else if s.unprivileged r d then some 0x8301
  else
    match states, dSlot d with
    | _, none => some 0x8102
    | none, some i => if arg s i then none else some 0x8102
    | some l, some i => if !l.contains (s.ctx i).state then some 0x3110 else if arg s i then none else some 0x8102

/-- A descriptor row: the descriptor at the head of the ring is taken if it belongs to the row, checked, and handled. A
descriptor that belongs to no row is taken by any row and rejected. -/
def State.descRow (s : State) (r : Ring) (row : Nat) (states : Option (List SlotState)) (arg : List Byte → State → Slot → Bool)
    (body : List Byte → CompRef → Slot → State → State) : State :=
  match s.takeDesc r with
  | none => s
  | some (d, c, s') =>
    match rowOf d with
    | none => s'.finish c 0x8101
    | some k =>
      if k ≠ row then s else
      match s'.descCheck r d states (arg d) with
      | some code =>
        match (if k = 0x10 then dSlot d else none) with
        | some i => s'.finish c code (s.ctx i).step (s.ctx i).vbuf
        | none => s'.finish c code
      | none => body d c ((dSlot d).getD 0) s'

end Sys2Proof.Machine
end

