-- ==== Sys2Proof/Machine/Tensor.lean ====
section
/-! DEFINITION. Sys2Proof/Machine/Tensor.lean: LOAD_TENSOR (R302), FENCE (R303), and the completions that wait for a
condition (R298, R302, R303). -/

namespace Sys2Proof.Machine

/-! ### What LOAD_TENSOR does -/

/-- The image that gives a binding its kind: the one that waits for its Bell, else the one in force. -/
def Ctx.nextImage (c : Ctx) : Option Image := match c.pending with | some p => some p.1 | none => c.image

/-- Whether a tensor that is bound is versioned, and whether it lies in host memory: as the image's handles of its
TENSOR_ID declare it; where none does, by ADDR1 and SRC_HOST (log entry 41). -/
def Ctx.bindKind (c : Ctx) (tid addr1 : Nat) (srcHost : Bool) : Bool × Bool :=
  let l : List HandleRec := match c.nextImage with | some im => im.handles.filter fun h => h.tid == tid && decide (5 ≤ h.mem) | none => []
  if l.isEmpty then (addr1 != 0, srcHost) else (l.any fun h => h.cls == 1, l.any fun h => h.mem == 6)

/-- BIND (R302). -/
def State.bind (s : State) (i : Slot) (d : List Byte) : State × W16 :=
  let tid := (le32 d 16).toNat
  let a1 := (le64 d 32).toNat
  let c := s.ctx i
  let k := c.bindKind tid a1 (dByte d 21 == 1)
  let b : Binding := { tid := tid, addr0 := (le64 d 24).toNat, addr1 := a1, len := (le64 d 48).toNat, host := k.2, versioned := k.1 }
  let old := c.bindings.find? fun b => b.tid == tid
  let mine := match old with | some b => b.granules | none => 0
  if (old.isNone && c.bindings.length ≥ 256) || b.granules > s.granulesFree + mine then (s, 0x8105) else
  (s.modCtx i fun c => { c with
    bindings := (c.bindings.filter fun b => b.tid != tid) ++ [b]
    ver := c.ver.filter fun v => v.1 != .offBlock tid }, 0)

/-- The scratch handles that a COPY fills: constant, or versioned in weight or activation memory. -/
def Image.copyTargets (im : Image) (tid : Nat) : List HandleRec :=
  im.handles.filter fun h => h.tid == tid && decide (h.mem ≤ 1) && (h.cls == 1 || h.cls == 2)

/-- Bytes written to a scratch handle of a core from its start, into the current copy of each granule. -/
def State.fillHandle (s : State) (i : Slot) (core : PCore) (e : HEnt) (bytes : List Byte) : State :=
  let c := s.ctx i
  (pieces e (bytes.length / 4096 + 2) 0 bytes.length).foldl (fun s p =>
    (s.countScr i p.2).modCore core fun k =>
      k.setMem e.mem ((k.mem e.mem).writeBytes (c.copyBase e (c.readSecond core e p.1 false) + p.1) ((bytes.drop p.1).take p.2))) s

/-- One source of a COPY read for one extent: through the host port, or through the memory ports under the read
regulator. -/
def State.copyRead (s : State) (i : Slot) (host : Bool) (addr n : Nat) : List Byte × State :=
  if host then (s.hostRead addr n, s.readReq true addr n (.ctx i))
  else (s.devRead addr n, (s.readReq false addr n (.ctx i)).countRd i addr n)

/-- The cores of a COPY filled from its source. -/
def State.copyFrom (s : State) (i : Slot) (src : CopySrc) : State :=
  match (s.ctx i).image with
  | none => s
  | some im =>
    ((List.range src.count).map (src.first + ·)).foldl (fun s n =>
      match s.imageCore (s.ctx i).policy.pitch n with
      | none => s
      | some core =>
        (im.copyTargets src.tid).foldl (fun s h =>
          match (s.core core).handle i h.h with
          | none => s
          | some e =>
            let r := s.copyRead i src.host ((src.addr0 + n * src.stride) % 2 ^ 64) (h.size * 256)
            r.2.fillHandle i core e r.1) s) s

/-- COPY (R302). -/
def State.copy (s : State) (i : Slot) (d : List Byte) : State × W16 :=
  let src : CopySrc :=
    { tid := (le32 d 16).toNat, host := dByte d 21 == 1, addr0 := (le64 d 24).toNat, stride := (le64 d 32).toNat, first := dByte d 40, count := dByte d 41 }
  match (s.ctx i).image with
  | none => (s, 0x8106)
  | some im =>
    let l := im.copyTargets src.tid
    if l.isEmpty || src.first + src.count > im.cores then (s, 0x8106) else
    let s := s.copyFrom i src
    let same (x : CopySrc) : Bool := x.tid == src.tid && x.first == src.first && x.count == src.count
    (if l.any fun h => h.cls == 2 then s.modCtx i fun c => { c with sources := (c.sources.filter fun x => !same x) ++ [src] } else s, 0)

/-- UNBIND (R302). -/
def State.unbind (s : State) (i : Slot) (d : List Byte) : State × W16 :=
  let tid := (le32 d 16).toNat
  (s.modCtx i fun c => { c with bindings := c.bindings.filter fun b => b.tid != tid, ver := c.ver.filter fun v => v.1 != .offBlock tid }, 0)

/-- What a LOAD_TENSOR does, by its OP. -/
def State.tensorOp (s : State) (i : Slot) (d : List Byte) : State × W16 :=
  match dByte d 20 with
  | 0 => s.bind i d
  | 1 => s.copy i d
  | _ => s.unbind i d

/-- A LOAD_TENSOR that must wait for the end of the slice in service: a BIND of a bound tensor, a COPY, an UNBIND. -/
def State.tensorWaits (s : State) (i : Slot) (d : List Byte) : Bool :=
  (s.ctx i).slice.isSome && (dByte d 20 != 0 || (s.ctx i).bindings.any fun b => b.tid == (le32 d 16).toNat)

/-- A COPY of the context waits: no slice of it is admitted (R302). -/
def State.copyWaits (s : State) (i : Slot) : Bool :=
  s.ev.held.any fun h => match h.waitFor with | .tensor j d => j == i && dByte d 20 == 1 | _ => false

/-! ### Completions that wait -/

/-- A completion held back. -/
def State.hold (s : State) (h : HeldComp) : State := { s with ev := { s.ev with held := s.ev.held ++ [h] } }
/-- A completion no longer held back. -/
def State.unhold (s : State) (h : HeldComp) : State := { s with ev := { s.ev with held := s.ev.held.erase h } }

/-- A completion leaves the completion egress of its ring's slot (R242). -/
def State.egressTaken (s : State) (c : CompRef) : State := match c.ring with | .slot i => s.taken 5 i.val (some i) | .admin => s

/-- A completion of a SUBMIT_SLICE or LOAD_IMAGE of a slot waits for the acknowledgement of what its descriptor wrote. -/
def State.compsOwed (s : State) (i : Slot) : Bool :=
  s.ev.held.any fun h => h.waitFor == .writes && h.comp.slot == i.val && (h.comp.type == 1 || h.comp.type == 2)

/-- The end of a CLOSE: the slot is FREE, and the descriptor completes (Table 5.2). -/
def State.closeEnd (s : State) (i : Slot) (c : CompRef) : State := ((s.modCtx i Ctx.keepTally).emptySlot i).finish c 0

/-- A waiting completion whose condition has come true is written. A LOAD_TENSOR or FENCE whose context has left its slot
completes with CTX_STATE. -/
def State.settleOne (s : State) (h : HeldComp) : State :=
  let gone (i : Slot) : Bool := (s.ctx i).state == .free || (s.ctx i).state == .arriving
  match h.waitFor with
  | .writes => if s.writing (fun o => o == .desc h.comp) then s else ((s.unhold h).egressTaken h.comp).writeComp h.comp h.code h.step h.vbuf
  | .quiet i =>
    if gone i then (s.unhold h).finish h.comp 0x3110
    else if (s.ctx i).slice.isSome then s else (s.unhold h).finish h.comp h.code
  | .tensor i d =>
    if gone i then (s.unhold h).finish h.comp 0x3110
    else if (s.ctx i).slice.isSome then s
    else
      let r := (s.unhold h).tensorOp i d
      r.1.finish h.comp r.2
  | .close i => if s.compsOwed i then s else (s.unhold h).closeEnd i h.comp

/-- An admin descriptor taken before a FENCE still owes its completion. -/
def State.fenceWaits (s : State) : Bool := ({ s with hst := { s.hst with fence := none } } : State).owed .admin

/-- A FENCE of the admin ring completes when every earlier descriptor has, and with QUIET when the context has no slice in
service (R303). -/
def State.settleFence (s : State) : State :=
  match s.hst.fence with
  | none => s
  | some (comp, q) =>
    let busy := match q with | some i => (s.ctx i).slice.isSome | none => false
    if s.fenceWaits || busy then s else ({ s with hst := { s.hst with fence := none } } : State).finish comp 0

/-- Every waiting completion whose condition has come true is written. -/
def State.settle (s : State) : State := (s.ev.held.foldl State.settleOne s).settleFence

/-! ### The commands -/

/-- A LOAD_TENSOR row. -/
def State.loadTensor (s : State) (r : Ring) (op : Nat) : State :=
  s.descRow r (0x30 + op) (some [.opened, .loaded]) (fun _ _ _ => true) fun d c i s =>
    if s.tensorWaits i d then
      let bad := op = 1 && match (s.ctx i).image with | some im => (im.copyTargets (le32 d 16).toNat).isEmpty || dByte d 40 + dByte d 41 > im.cores | none => true
      if bad then s.finish c 0x8106 else s.hold { comp := c, waitFor := .tensor i d }
    else
      let x := s.tensorOp i d
      x.1.finish c x.2

/-- FENCE (R303). -/
def State.fence (s : State) (r : Ring) : State :=
  s.descRow r 0x40 (some [.opened, .loaded]) (fun _ _ _ => true) fun d c i s =>
    let q := dByte d 16 == 1
    match r with
    | .admin => ({ s with hst := { s.hst with fence := some (c, if q then some i else none) } } : State).settleFence
    | .slot _ => if q && (s.ctx i).slice.isSome then s.hold { comp := c, waitFor := .quiet i } else s.finish c 0

def execBindTensor (r : Ring) (s : State) : Host.Outcome State Fault Refusal := s.run fun s => s.loadTensor r 0
def execCopyTensor (r : Ring) (s : State) : Host.Outcome State Fault Refusal := s.run fun s => s.loadTensor r 1
def execUnbindTensor (r : Ring) (s : State) : Host.Outcome State Fault Refusal := s.run fun s => s.loadTensor r 2
def execFence (r : Ring) (s : State) : Host.Outcome State Fault Refusal := s.run fun s => s.fence r

end Sys2Proof.Machine
end

