-- ==== Sys2Proof/Machine/Swap.lean ====
section
/-! DEFINITION. Sys2Proof/Machine/Swap.lean: swap records (R104), eviction (R105), swap-in (R107), and the decisions of the
Market about both (R106), with the seed table (R323) and the state words of R177 and R203. -/

namespace Sys2Proof.Machine

/-! ### Records -/

/-- A policy word (Table 13.8); a RERUN_LIMIT of 0 is taken as 3. -/
def Policy.ofWord (w : W64) : Policy :=
  { pitch := ⟨fld w 3 0 % 16, Nat.mod_lt _ (by decide)⟩, prio := fld w 5 4, teardown := bit w 6
    rerunLimit := if fld w 10 7 = 0 then 3 else fld w 10 7, evictable := bit w 11, debugAllowed := bit w 12, tallyIdle := bit w 13
    swapIndex := w.extractLsb' 16 16 }

/-- The policy word of a policy. -/
def Policy.word (p : Policy) : W64 :=
  BitVec.ofNat 64 (p.pitch.val ||| p.prio <<< 4 ||| b2n p.teardown <<< 6 ||| p.rerunLimit <<< 7 ||| b2n p.evictable <<< 11 |||
    b2n p.debugAllowed <<< 12 ||| b2n p.tallyIdle <<< 13 ||| p.swapIndex.toNat <<< 16)

/-- Reserved bits of a policy word. -/
def policyReserved (w : W64) : Bool := fld w 63 32 ≠ 0 || fld w 15 14 ≠ 0

/-- A ring set-up block (Table 13.2). -/
def RingSetup.ofBytes (bs : List Byte) : RingSetup :=
  let w4 := le32 bs 16
  { sqBase := (le64 bs 0).toNat, cqBase := (le64 bs 8).toNat, dbGen := w4.extractLsb' 20 12, cqLog := fld w4 12 8, sqLog := fld w4 4 0
    pasidEn := bit (le32 bs 20) 20, pasid := (le32 bs 20).extractLsb' 0 20, irqEn := bit (le32 bs 24) 16
    vector := (le32 bs 24).extractLsb' 0 11 }

/-- The 32 bytes of a ring set-up. -/
def RingSetup.bytes (r : RingSetup) : List Byte :=
  leBytes 8 r.sqBase ++ leBytes 8 r.cqBase ++ leBytes 4 (r.dbGen.toNat <<< 20 ||| r.cqLog <<< 8 ||| r.sqLog) ++
  leBytes 4 (b2n r.pasidEn <<< 20 ||| r.pasid.toNat) ++ leBytes 4 (b2n r.irqEn <<< 16 ||| r.vector.toNat) ++ [0, 0, 0, 0]

/-- Reserved bits of a ring set-up block. -/
def setupReserved (bs : List Byte) : Bool :=
  fld (le64 bs 0) 11 0 ≠ 0 || fld (le64 bs 8) 11 0 ≠ 0 || fld (le32 bs 16) 19 13 ≠ 0 || fld (le32 bs 16) 7 5 ≠ 0 ||
  fld (le32 bs 20) 31 21 ≠ 0 || fld (le32 bs 24) 31 17 ≠ 0 || fld (le32 bs 24) 15 11 ≠ 0 || le32 bs 28 ≠ 0

/-- The address of swap record i. -/
def State.swapAddr (s : State) (i : Nat) : Nat := s.mkt.swapBase.toNat + 128 * i
/-- The address of seed entry i (R323). -/
def State.seedAddr (s : State) (i : Nat) : Nat := s.mkt.swapBase.toNat + 128 * s.mkt.swapCount + 16 * i
/-- The 128 bytes of swap record i. -/
def State.swapRecord (s : State) (i : Nat) : List Byte := s.devRead (s.swapAddr i) 128

/-- Reserved bits of a swap record (Table 5.5). -/
def swapReserved (bs : List Byte) : Bool :=
  fld (le32 bs 4) 21 12 ≠ 0 || fld (le32 bs 16) 31 12 ≠ 0 || policyReserved (le64 bs 24) || setupReserved ((bs.drop 64).take 32) ||
  fld (le32 bs 96) 31 17 ≠ 0 || !zeroBytes bs 100 128

/-- The record is one that a swap-in may take: VALID and SWAPPED, not HELD. -/
def swapReady (bs : List Byte) : Bool := bit (le32 bs 4) 31 && bit (le32 bs 4) 30 && !bit (le32 bs 4) 29

/-- The record index of a context. -/
def Ctx.record (c : Ctx) : Nat := c.policy.swapIndex.toNat

/-- The swap record of a context that is evicted, SWAPPED set; VALID is the host's and is kept (log entry 42). The
completion index reserved for a SUBMIT_SLICE that stays at the head is given back; one of a ring that another has replaced is not of
this ring. -/
def State.recordBytes (s : State) (i : Slot) (held : Bool) : List Byte :=
  let c := s.ctx i
  let p := c.policy
  let cq := match c.desc with | some d => if c.descAtHead then d.comp.idx else c.ring.cqTail | none => c.ring.cqTail
  let n := 2 ^ c.setup.cqLog
  let valid := bit (le32 (s.swapRecord c.record) 4) 31
  leBytes 4 c.id.toNat ++
  leBytes 4 (b2n valid <<< 31 ||| 1 <<< 30 ||| b2n held <<< 29 ||| b2n p.evictable <<< 28 ||| p.prio <<< 26 ||| p.pitch.val <<< 22 ||| c.ctxGen.toNat) ++
  leBytes 8 c.step.toNat ++ leBytes 4 c.igen.toNat ++ leBytes 4 c.tallySeq.toNat ++ leBytes 8 p.word.toNat ++
  leBytes 8 (match c.image with | some im => im.addr | none => 0) ++ leBytes 8 c.backing ++ leBytes 8 c.doorbell ++
  leBytes 4 c.ring.head ++ leBytes 4 (phaseOf cq n <<< 31 ||| cq) ++ c.setup.bytes ++ leBytes 4 c.quota ++ List.replicate 28 0

/-! ### Write-back (R105, R177, R203) -/

/-- The versioned handles in scratch of an image, in ascending handle number. -/
def Image.versioned (im : Image) : List HandleRec :=
  (im.handles.filter fun h => h.cls == 1 && decide (h.mem ≤ 1)).mergeSort fun a b => decide (a.h ≤ b.h)

/-- An eviction of the context has something to write back. -/
def Ctx.needsBack (c : Ctx) : Bool :=
  match c.image with
  | some im => !im.versioned.isEmpty || !im.regions.isEmpty || decide (0 < im.layers)
  | none => false

/-- The state word of a region (R177). -/
def RegSt.word (r : RegSt) : List Byte := leBytes 8 (wrapN 13 r.g ||| b2n r.baseZero <<< 16)
/-- The format word of a layer (R203). -/
def FmtSt.word (f : FmtSt) : List Byte := leBytes 4 (f.fmt ||| f.run <<< 2)

/-- The state of region n of a context on the first of its cores that holds it; it is the same on all (R172). -/
def State.regionSt (s : State) (i : Slot) (n : Nat) : RegSt :=
  ((s.ctxCores i).findSome? fun c => (s.core c).regions.find? fun r => r.slot == i && r.idx == n).getD
    { slot := i, idx := n, layer := 0, flow := 0, off := 0, len := 0 }

/-- The write-back of a context: versioned handles by handle and core, GAB bases by region and core, the region words and
the format words. -/
def State.backBytes (s : State) (i : Slot) : List Byte :=
  let c := s.ctx i
  match c.image with
  | none => []
  | some im =>
    let cores := s.ctxCores i
    (im.versioned.flatMap fun h => cores.flatMap fun k =>
      match (s.core k).handle i h.h with | some e => s.readH k i e 0 (h.size * 256) false | none => []) ++
    (im.regions.flatMap fun r => (cores.zipIdx.filter fun k => r.mask.getLsbD k.2).flatMap fun k =>
      (s.core k.1).base.readBytes (8 * r.off) (8 * r.len)) ++
    ((List.range im.regions.length).flatMap fun n => (s.regionSt i n).word) ++
    (List.range im.layers).flatMap fun l => ((c.fmt.find l).getD {}).word

/-! ### Eviction (R105) -/

/-- A context that an eviction may name: LOADED, with a record, and a buffer for what it must write back. -/
def State.canEvict (s : State) (i : Slot) : Bool :=
  let c := s.ctx i
  c.state == .loaded && decide (c.record < s.mkt.swapCount) && (!c.needsBack || c.backing != 0)

/-- No eviction of the context is under way but a decision of the Market that still waits for its Bell, over which an EVICT
governs (R103) and which a slice admitted late makes lapse (R106). -/
def Ctx.evictOpen (c : Ctx) : Bool := match c.evict with | none => true | some e => e.byMarket && !e.writing

/-- Swap record n belongs to a resident context, so the block ignores its contents (R104). -/
def State.recordTaken (s : State) (n : Nat) : Bool := allSlots.any fun i => (s.ctx i).resident && (s.ctx i).record == n

/-- A slot becomes FREE and its stores are free at once. -/
def State.freeSlot (s : State) (i : Slot) : State := (s.dropImage i).emptySlot i

/-- What the write of a swap record or seed entry belongs to: the descriptor, whose completion waits for it, or the block. -/
def recordOwner : Option CompRef → WOwner
  | some c => .desc c
  | none => .record

/-- What the block keeps of an evicted context beside its record (log entry 40). -/
def Ctx.kept (c : Ctx) : Parked :=
  { id := c.id, bindings := c.bindings, sources := c.sources, ver := c.ver.filter fun v => v.1.offChip, group := c.group }

/-- What the block keeps of slot i stands beside record r. -/
def State.park (s : State) (i : Slot) (r : Nat) : State :=
  { s with mkt := { s.mkt with parked := s.mkt.parked.insert r (s.ctx i).kept } }

/-- The last steps of an eviction, once its write-back is acknowledged: the record, the seed entry, the slot freed,
CTX_EVICTED. -/
def State.evictEnd (s : State) (i : Slot) : State :=
  let c := s.ctx i
  match c.evict with
  | none => s
  | some e =>
    if !e.writing || s.writing (fun o => o == .evict i) then s else
    let o := recordOwner e.comp
    let s := s.dropPending i
    let s := s.devWrite (s.seedAddr c.record) (leBytes 8 c.seedReg.toNat ++ [BitVec.ofNat 8 (b2n c.freeReg)] ++ List.replicate 7 0) o
    let s := s.devWrite (s.swapAddr c.record) (s.recordBytes i e.failed) o
    let s := s.park i c.record
    let s := s.report { code := 0x1001, slot := i.val, origin := oCtl, detail := Config.detailPack 0x1001 (e.successor.toList) }
    let s := (s.freeSlot i).modCtx i fun c => { c with quota := 0, quotaReg := 0 }
    let s := s.count 0x1A0C 1
    match e.comp with
    | some k => s.finish k 0
    | none => match e.successor with
      | some r => { s with mkt := { s.mkt with swapNow := s.mkt.swapNow ++ [(r, i)] } }
      | none => s

/-- A decision of the Market lapses at its Bell where the context has had a slice in service since, or is no longer LOADED
(R106); the Tally of a context that is evicted says so (R111). -/
def State.evictMark (s : State) (i : Slot) : State :=
  let c := s.ctx i
  match c.evict with
  | none => s
  | some e =>
    if e.writing then s
    else if e.byMarket && (c.hadSlice || c.state ≠ .loaded) then s.modCtx i fun c => { c with evict := none }
    else s.modCtx i fun c => { c with outcome := some (4, match c.outcome with | some o => o.2 | none => 0) }

/-- The write-back of an eviction starts, after row B+1 of a Bell. -/
def State.evictStart (s : State) (i : Slot) : State :=
  let c := s.ctx i
  match c.evict with
  | none => s
  | some e =>
    if e.writing then s
    else
      let bs := if c.needsBack then s.backBytes i else []
      let s := s.modCtx i fun c => { c with evict := some { e with writing := true } }
      let s := if bs.isEmpty then s else (s.devWrite c.backing bs (.evict i)).countWr i c.backing bs.length
      s.evictEnd i

/-- EVICT (R105): the slice is killed, and its descriptor stays at the head of the ring. -/
def State.evictDesc (s : State) (r : Ring) : State :=
  s.descRow r 0x60 (some [.loaded]) (fun _ _ _ => true) fun _ c i s =>
    if !s.canEvict i || !(s.ctx i).evictOpen then s.finish c 0x3110 else
    let had := (s.ctx i).slice.isSome
    let s := s.killSlice i
    let s := s.modCtx i fun k => { k with
      evict := some { byMarket := false, comp := some c }, barred := true, outcome := if had then some (4, 0x1001) else k.outcome }
    s.settle

/-! ### Swap-in (R107) -/

/-- The sum of quotas that R90 holds to the size of the matching store: of each context the larger of its value in force
and its last accepted one. -/
def State.quotaSum (s : State) : Nat := natSum (allSlots.map fun i => max (s.ctx i).quota (s.ctx i).quotaReg)

/-- That sum without slot i, whose old quota the record's replaces at once (R90, R107). -/
def State.quotaOthers (s : State) (i : Slot) : Nat := s.quotaSum - max (s.ctx i).quota (s.ctx i).quotaReg

/-- Every bank that a context's handles and regions touch on its cores is on (R135). -/
def Core.banksNeeded (k : Core) (ok : Slot → Bool) : BitVec 24 :=
  let hs := (k.handles.filter fun e => ok e.slot && decide (e.mem ≤ 4) && decide (1 ≤ e.size)).flatMap fun e =>
    let lo := bankOf e.mem (e.base * 64)
    let hi := bankOf e.mem (e.base * 64 + e.size * 256 * (if e.cls = 1 then 2 else 1) - 1)
    (List.range (hi + 1 - lo)).map (lo + ·)
  let rs := (k.regions.filter fun r => ok r.slot && decide (1 ≤ r.len)).flatMap fun r =>
    let a := 8 * r.off / 524288
    let b := (8 * (r.off + r.len) - 1) / 524288
    (List.range (b + 1 - a)).flatMap fun n => [22 + a + n, 20 + a + n]
  (hs ++ rs).foldl (fun m n => setBit m n true) 0

/-- Every bank that slot i needs on its cores is on. -/
def State.banksOn (s : State) (i : Slot) : Bool :=
  (s.ctxCores i).all fun c => (s.core c).banksNeeded (· == i) &&& ~~~ (s.core c).bankOn == 0

/-- The checks of swap record r for slot i, whose pitch is already that of the record (R107). -/
def State.swapCheck (s : State) (i : Slot) (bs : List Byte) (r : Nat) : Except W16 Image :=
  let seed := s.devRead (s.seedAddr r) 16
  if swapReserved bs then .error 0x3114 else
  let addr := (le64 bs 32).toNat
  let f := ImageFile.ofHeader (s.devRead addr 128)
  let file := s.devRead addr f.len
  if f.len < 128 || !crcGood file then .error 0xA203 else
  let im := f.image addr file
  if f.cores > (maskCores (s.pit (s.ctx i).policy.pitch).mask).length then .error 0xA206 else
  if im.peakTokens > 65536 || im.peakTasks > 262144 then .error 0xA205 else
  match s.roomCheck i im with
  | some code => .error code
  | none =>
    if !s.extentsOk i im then .error 0x3113 else
    if !s.handleRoom i im then .error 0xA20F else
    if !s.regionRoom i im then .error 0xA212 else
    if s.quotaOthers i + fld (le32 bs 96) 16 0 > 65536 then .error 0x3115 else
    if fld (le64 seed 8) 63 1 ≠ 0 || (bit (le64 seed 8) 0 && s.cfg.det) then .error 0x3114 else .ok im

/-- A swap-in fails: what it has allocated is freed, the record is HELD, the slot is FREE, the code is reported. What the block
keeps of the context stands beside the record again, for the swap-in after HELD is cleared. -/
def State.swapFail (s : State) (i : Slot) (code : W16) : State :=
  match (s.ctx i).swapIn with
  | none => s
  | some w =>
    let s := if (s.ctx i).image.isSome then s.park i w.record else s
    let ctrl := le32 (s.swapRecord w.record) 4
    let o := recordOwner w.comp
    let s := s.devWrite (s.swapAddr w.record + 4) (leBytes 4 (setBit ctrl 29 true).toNat) o
    let s := s.noteCtx code i
    let s := (s.freeSlot i).modCtx i fun c => { c with quota := 0, quotaReg := 0 }
    match w.comp with | some c => s.finish c code | none => s

/-- The context of a record in its slot, before its image (R107 step 1; Table 5.5). -/
def Ctx.restore (c : Ctx) (bs : List Byte) (w : SwapIn) : Ctx :=
  let ctrl := le32 bs 4
  let cq := fld (le32 bs 60) 30 0
  { c with
    state := .arriving, id := le32 bs 0, ctxGen := ctrl.extractLsb' 0 12, step := le64 bs 8, igen := (le32 bs 16).extractLsb' 0 12
    draining := true, policy := Policy.ofWord (le64 bs 24), policyNext := none, setup := RingSetup.ofBytes ((bs.drop 64).take 32)
    setupNext := none, group := {}, groupNext := none, backingNext := none, doorbell := (le64 bs 48).toNat, backing := (le64 bs 40).toNat
    ring := { head := (le32 bs 56).toNat, tail := (le32 bs 56).toNat, cqTail := cq, cqHead := cq }
    ringSetups := c.ringSetups + 1
    counters := Tab.fill 32 0, act := {}, carry := {}, tallySeq := le32 bs 20, outcome := none, hadSlice := false, swapIn := some w
    evict := none, nacks := 0, blocked := 0, noResume := false, reload := false, barred := false }

/-- A swap-in of record r into slot i begins (R107 steps 1 to 4). -/
def State.swapBegin (s : State) (i : Slot) (r : Nat) (byMarket : Bool) (comp : Option CompRef) : State :=
  let bs := s.swapRecord r
  let s := s.readReq false (s.swapAddr r) 128 .supervisor
  let s := s.modCtx i fun c => c.restore bs { record := r, byMarket := byMarket, comp := comp }
  match s.swapCheck i bs r with
  | .error code => s.swapFail i code
  | .ok im =>
    match s.kernelPlace i im.kernelLen with
    | none => s.swapFail i 0xA20E
    | some base =>
      let q := fld (le32 bs 96) 16 0
      let seed := s.devRead (s.seedAddr r) 16
      let kept := match s.mkt.parked.find r with | some p => if p.id = (s.ctx i).id then some p else none | none => none
      let s := s.loadImage i im base
      let s : State := { s with mkt := { s.mkt with parked := s.mkt.parked.erase r } }
      s.modCtx i fun c => { c with
        quota := q, quotaReg := q, seedReg := le64 seed 0, freeReg := bit (le64 seed 8) 0
        bindings := (kept.map (·.bindings)).getD [], sources := (kept.map (·.sources)).getD [], ver := (kept.map (·.ver)).getD []
        group := (kept.map (·.group)).getD {} }

/-- A list cut into pieces of the lengths given. -/
def cutBy (bs : List Byte) : List Nat → List (List Byte)
  | [] => []
  | n :: t => bs.take n :: cutBy (bs.drop n) t

/-- The write-back buffer read into scratch; none where a state word breaks R177 or R203. -/
def State.restoreBack (s : State) (i : Slot) (im : Image) : Option State :=
  let c := s.ctx i
  let cores := s.ctxCores i
  let hs := im.versioned.flatMap fun h => cores.map fun k => (h, k)
  let rs := im.regions.zipIdx.flatMap fun r => ((cores.zipIdx.filter fun k => r.1.mask.getLsbD k.2).map fun k => (r.1, k.1))
  let total := natSum (hs.map fun h => h.1.size * 256) + natSum (rs.map fun r => 8 * r.1.len) + 8 * im.regions.length + 4 * im.layers
  let bs := s.devRead c.backing total
  let s := if total = 0 then s else (s.readReq false c.backing total .supervisor).countRd i c.backing total
  let p := cutBy bs (hs.map (fun h => h.1.size * 256) ++ rs.map (fun r => 8 * r.1.len) ++ List.replicate im.regions.length 8 ++ List.replicate im.layers 4)
  let s := (hs.zip p).foldl (fun s x => match (s.core x.1.2).handle i x.1.1.h with | some e => s.fillHandle i x.1.2 e x.2 | none => s) s
  let p := p.drop hs.length
  let s := (rs.zip p).foldl (fun s x => (s.countScr i x.2.length).modCore x.1.2 fun k => { k with base := k.base.writeBytes (8 * x.1.1.off) x.2 }) s
  let p := p.drop rs.length
  let gw := (p.take im.regions.length).map fun b => (le64 b 0)
  let fw := (p.drop im.regions.length).map fun b => (le32 b 0)
  if gw.any (fun w => fld w 63 17 ≠ 0 || fld w 15 13 ≠ 0) || fw.any (fun w => fld w 31 5 ≠ 0 || fld w 1 0 = 3) then none else
  let s : State := { s with cores := s.cores.map fun k => { k with regions := k.regions.map fun r =>
    match (if r.slot == i then gw[r.idx]? else none) with
    | some w => { r with g := signedN 13 (fld w 12 0), baseZero := bit w 16 }
    | none => r } }
  some (s.modCtx i fun c => { c with fmt := fw.zipIdx.map fun w => (w.2, { fmt := fld w.1 1 0, run := fld w.1 4 2 }) })

/-- A swap-in completes once every bank that the image needs is on: constant tensors re-streamed, the write-back buffer
read, SWAPPED cleared, CTX_GEN incremented, LOADED (R107 steps 5 and 6). The first admission is at the next Bell. -/
def State.swapEnd (s : State) (i : Slot) : State :=
  let c := s.ctx i
  match c.swapIn, c.image with
  | some w, some im =>
    if !s.runs || c.state ≠ .arriving || !s.banksOn i then s else
    let s := c.sources.foldl (fun s x => s.copyFrom i x) s
    match if c.needsBack then s.restoreBack i im else some s with
    | none => s.swapFail i 0x3114
    | some s =>
      let o := recordOwner w.comp
      let s := s.devWrite (s.swapAddr w.record + 4) (leBytes 4 (setBit (le32 (s.swapRecord w.record) 4) 30 false).toNat) o
      let s := (s.modCtx i fun c => { c with state := .loaded, ctxGen := c.ctxGen + 1, swapIn := none, barred := true }).noteCtx 0x1002 i
      let s := s.count 0x1A0D 1
      match w.comp with | some k => s.finish k 0 | none => s
  | _, _ => s

/-- SWAP_IN: from SET_POLICY, by the Market's plan for the Bell, and the end of a restore (R107). The record of a resident
context is ignored (R104). A plan whose slot the host has opened before its Bell stays until the slot is FREE, and its record
is no candidate meanwhile: R106 says nothing of it (DESIGN CHOICE, log entry 75). -/
def State.swapIn (s : State) (src : SwapSrc) : State :=
  match src with
  | .desc r =>
    s.descRow r 0x84 (some [.free]) (fun d s _ => decide ((le16 d 56).toNat < s.mkt.swapCount)) fun d c i s =>
      let n := (le16 d 56).toNat
      if policyReserved (le64 d 24) then s.finish c 0x8101
      else if s.recordTaken n || !swapReady (s.swapRecord n) then s.finish c 0x3110 else s.swapBegin i n false (some c)
  | .market i =>
    match s.mkt.swapNow.find? fun p => p.2 == i with
    | some p =>
      if !s.runs || (s.ctx i).state ≠ .free || s.unitBusy false (s.swapAddr p.1) 128 then s else
      let s : State := { s with mkt := { s.mkt with swapNow := s.mkt.swapNow.erase p } }
      if !s.recordTaken p.1 && swapReady (s.swapRecord p.1) then s.swapBegin i p.1 true none else s
    | none => s
  | .restored i => s.swapEnd i

/-! ### The Market (R106) -/

/-- One record of the swap area is read: whether its doorbell shows a descriptor beyond SQ_HEAD. That of a resident context
is ignored (R104). -/
def State.swapScan (s : State) (n : Nat) : State :=
  let bs := s.swapRecord n
  let s := s.readReq false (s.swapAddr n) 128 .supervisor
  let rest := s.mkt.runnable.filter fun r => r.1 != n
  let su := RingSetup.ofBytes ((bs.drop 64).take 32)
  let db := s.hostRead (le64 bs 48).toNat 64
  let w0 := le64 db 0
  let w1 := le64 db 8
  let k := span 32 (fld w0 31 0) (le32 bs 56).toNat
  let ready := swapReady bs && !s.recordTaken n
  let ok := ready && fld w0 63 52 == su.dbGen.toNat && fld w0 51 32 == 0 && fld w1 63 31 == 0 && decide (1 ≤ k) &&
    decide (k ≤ 2 ^ su.sqLog) && decide (span 31 (fld (le32 bs 60) 30 0) (fld w1 30 0) ≤ 2 ^ su.cqLog)
  let s := if ready then s.readTagged 16 (le64 bs 48).toNat 64 (if su.pasidEn then some su.pasid else none) else s
  { s with mkt := { s.mkt with
      runnable := if ok then rest ++ [(n, fld (le32 bs 4) 27 26, fld (le32 bs 4) 25 22)] else rest } }

/-- At each Bell the Market reads 32 records in rotation. -/
def State.swapScanBell (s : State) : State :=
  let c := s.mkt.swapCount
  if c = 0 then { s with mkt := { s.mkt with runnable := [] } } else
  let k := min 32 c
  let s := (List.range k).foldl (fun s j => s.swapScan ((s.mkt.swapPtr + j) % c)) s
  { s with mkt := { s.mkt with swapPtr := (s.mkt.swapPtr + k) % c } }

/-- A resident LOADED context without a slice in service after admission. -/
def Ctx.isBlocked (c : Ctx) : Bool := c.state == .loaded && c.slice.isNone

/-- The candidate record of a pitch: highest PRIO, then lowest index, not already on its way in. -/
def State.swapCand (s : State) (p : Pitch) : Option (Nat × Nat) :=
  let busy (n : Nat) : Bool := s.recordTaken n || ((s.mkt.swapPlan ++ s.mkt.swapNow).any fun x => x.1 == n) || allSlots.any fun i =>
    (match (s.ctx i).evict with | some e => e.successor == some n | none => false) ||
    (match (s.ctx i).swapIn with | some w => w.record == n | none => false)
  match s.mkt.runnable.filter fun r => r.2.2 == p.val && !busy r.1 with
  | [] => none
  | h :: t =>
    let b := t.foldl (fun a r => if r.2.1 > a.2.1 || (r.2.1 = a.2.1 && r.1 < a.1) then r else a) h
    some (b.1, b.2.1)

/-- The victim for a candidate of PRIO q among contexts: lowest PRIO, then most blocked Bells, then highest slot. -/
def State.swapVictim (s : State) (p : Pitch) (q : Nat) (l : List Slot) : Option Slot :=
  let after := max 1 (fld (s.pit p).evict 7 0)
  let ok (i : Slot) : Bool :=
    let c := s.ctx i
    c.isBlocked && c.policy.evictable && s.canEvict i && c.evict.isNone && decide (after ≤ c.blocked) && decide (c.policy.prio ≤ q)
  match l.filter ok with
  | [] => none
  | h :: t => some (t.foldl (fun a i =>
      let x := s.ctx a
      let y := s.ctx i
      if y.policy.prio < x.policy.prio || (y.policy.prio = x.policy.prio && (y.blocked > x.blocked || (y.blocked = x.blocked && i.val > a.val))) then i else a) h)

/-- The Market's step for a pitch after admission at a Bell (R106). -/
def State.swapDecide (s : State) (p : Pitch) : State :=
  if !bit (s.pit p).evict 8 then s else
  match s.swapCand p with
  | none => s
  | some (n, q) =>
    let inWay := (allSlots.any fun i => (s.ctx i).state == .arriving && (s.ctx i).policy.pitch == p) ||
      (s.mkt.swapPlan ++ s.mkt.swapNow).any fun x => fld (le32 (s.swapRecord x.1) 4) 25 22 == p.val
    let free := allSlots.find? fun i => (s.ctx i).state == .free && !(s.mkt.swapPlan ++ s.mkt.swapNow).any fun x => x.2 == i
    match inWay, free with
    | false, some i => { s with mkt := { s.mkt with swapPlan := s.mkt.swapPlan ++ [(n, i)] } }
    | _, _ =>
      let res := s.residents p
      let pool := if res.isEmpty then allSlots.filter fun i => (s.ctx i).isBlocked else res
      if !res.all (fun i => (s.ctx i).isBlocked) then s else
      match s.swapVictim p q pool with
      | none => s
      | some v => s.modCtx v fun c => { c with evict := some { byMarket := true, comp := none, successor := some n } }

def execEvict (r : Ring) (s : State) : Host.Outcome State Fault Refusal := s.run fun s => s.evictDesc r
def execSwapIn (src : SwapSrc) (s : State) : Host.Outcome State Fault Refusal := s.run fun s => s.swapIn src

end Sys2Proof.Machine
end

