-- ==== Sys2Proof/Machine/Admit.lean ====
section
/-! DEFINITION. Sys2Proof/Machine/Admit.lean: banks and image installs (R65, R135), SUBMIT_SLICE (R300), admission (R34 to R36)
and instantiation (R67). -/

namespace Sys2Proof.Machine

/-! ### Banks (R135) -/

/-- The contents of bank b of a core zeroed (R135). -/
def Core.clearBank (k : Core) (b : Nat) : Core :=
  (List.range 5).foldl (fun k m =>
    if firstBank m ≤ b && decide (b < firstBank m + memSize m / 524288)
    then k.setMem m ((k.mem m).clear ((b - firstBank m) * 524288) 524288) else k) k

/-- The banks that an image being installed needs on image core n of slot i. -/
def Image.banks (im : Image) (i : Slot) (n : Nat) : BitVec 24 :=
  ({ handles := im.handles.map fun h => { slot := i, h := h.h, mem := h.mem, cls := h.cls, base := h.off, size := h.size }
     regions := im.regionStates i n } : Core).banksNeeded fun _ => true

/-- The banks that the images waiting for their install at this Bell need on a core. -/
def State.banksPending (s : State) (c : PCore) : BitVec 24 :=
  allSlots.foldl (fun m i =>
    if !s.bel.installs.contains i && !(s.ctx i).installWait then m else
    match (s.ctx i).pending, (s.pitchCores (s.ctx i).policy.pitch).findIdx? (· == c) with
    | some p, some n => if n < p.1.cores then m ||| p.1.banks i n else m
    | _, _ => m) 0

/-- The banks needed in a core (R135). -/
def State.banksWanted (s : State) (c : PCore) : BitVec 24 :=
  let k := s.core c
  k.bankForce ||| if (s.pitchOf c).isSome then k.banksNeeded (fun _ => true) ||| s.banksPending c else 0

/-- Bank power at a Bell (R135): what is no longer needed goes off and loses its contents; what is newly needed starts up. -/
def State.bankPower (s : State) (c : PCore) : State :=
  let need := s.banksWanted c
  let off := (s.core c).bankOn &&& ~~~need
  s.modCore c fun k =>
    let k := ((List.range 24).filter fun b => off.getLsbD b).foldl Core.clearBank k
    { k with bankOn := k.bankOn &&& need, bankUp := need &&& ~~~k.bankOn }

/-- BANK_POWER_UP_DONE (R135): the bank is on, filled with zero. -/
def State.bankUpDone (s : State) (c : PCore) (b : Fin 24) : State :=
  if !s.runs || !(s.core c).bankUp.getLsbD b then s else
  s.modCore c fun k =>
    let k := k.clearBank b
    { k with bankOn := setBit k.bankOn b true, bankUp := setBit k.bankUp b false }

/-- Every bank that the pending image of slot i needs is on. -/
def State.pendingBanksOn (s : State) (i : Slot) : Bool :=
  match (s.ctx i).pending with
  | some p => ((s.pitchCores (s.ctx i).policy.pitch).take p.1.cores).zipIdx.all fun c => p.1.banks i c.2 &&& ~~~(s.core c.1).bankOn == 0
  | none => true

/-! ### IMAGE_INSTALL (R65) -/

/-- IMAGE_INSTALL: the installs of a Bell in ascending slot number; one whose banks are not all on yet waits for them. -/
def State.imageInstall (s : State) (i : Slot) : State :=
  let c := s.ctx i
  let turn := s.bel.installs.head? == some i
  if !s.runs || !(turn || c.installWait) || c.pending.isNone then s else
  let s : State := { s with bel := { s.bel with installs := s.bel.installs.erase i } }
  match c.pending with
  | none => s
  | some (im, _) =>
    if (s.installCheck i im).isSome || s.pendingBanksOn i then s.install i
    else
      let at_ := if c.installWait then s.bel.waitAt else s.bel.waitAt.insert i.val ((s.kernelPlace i im.kernelLen).getD 0)
      { s with bel := { s.bel with waitAt := at_ } }.modCtx i fun c => { c with installWait := true }

/-! ### SUBMIT_SLICE (R300) -/

/-- The entry records of a parameter block. -/
def entryRecords (bs : List Byte) (n : Nat) : List (List Byte) := (List.range n).map fun j => (bs.drop (32 * j)).take 32
/-- The binding records after n entry records. -/
def bindRecords (bs : List Byte) (n k : Nat) : List (List Byte) := (List.range k).map fun j => (bs.drop (32 * n + 16 * j)).take 16

/-- Reserved fields of an entry record. -/
def entryReserved (b : List Byte) : Bool := fld (le32 b 0) 31 22 ≠ 0 || !zeroBytes b 4 16 || tokenReserved (b.drop 16)
/-- Reserved fields of a binding record. -/
def bindReserved (b : List Byte) : Bool := le32 b 4 ≠ 0

/-- An entry record as the slice keeps it: task, port and token. -/
def entryOfBytes (b : List Byte) : Nat × Nat × Token := (fld (le32 b 0) 17 0, fld (le32 b 0) 21 18, Token.ofBytes (b.drop 16))
/-- A binding record: tensor and device address. -/
def bindOfBytes (b : List Byte) : Nat × Nat := ((le32 b 0).toNat, (le64 b 8).toNat)

/-- The entries name each entry port of the image exactly once (R61). -/
def Image.entriesOk (im : Image) (l : List (Nat × Nat × Token)) : Bool :=
  l.length == im.entries && im.entryPorts.all fun e => (l.filter fun x => x.1 == e.1 && x.2.1 == e.2).length == 1

/-- Every handle of MEMORY 5 or 6 has an address (R300): a transient one from the slice's bindings too. -/
def Ctx.boundOk (c : Ctx) (im : Image) (binds : List (Nat × Nat)) : Bool :=
  im.handles.all fun h => decide (h.mem < 5) || (c.bindings.any fun b => b.tid == h.tid) ||
    (h.mem == 5 && h.cls == 0 && binds.any fun b => b.1 == h.tid)

/-! ### Admission (R34, R35) -/

/-- What admission answers for a slice. -/
inductive Admit where
  | reject (code : W16)
  | defer
  | accept
deriving DecidableEq, Repr

/-- BEL.GUARD for a linked context, else nothing (R35). -/
def State.guardOf (s : State) (i : Slot) : Nat := if (s.ctx i).group.linked then s.bel.guard else 0
/-- The budget of a slice admitted at a Bell. -/
def State.bellBudget (s : State) (i : Slot) : Nat := s.bel.period - s.bel.reserve - s.guardOf i
/-- The budget of a slice admitted late (R36). -/
def State.lateBudget (s : State) (i : Slot) : Nat := s.nextBell - s.clk.time - s.guardOf i

/-- Task-store entries reserved by the slices in service (R67). -/
def State.tasksReserved (s : State) : Nat :=
  natSum (allSlots.map fun i => match (s.ctx i).slice, (s.ctx i).image with | some _, some im => im.peakTasks | _, _ => 0)

/-- Check 5 (R30): of each host-memory versioned tensor, the host has consumed the completion of the step that made current
the buffer that the slice would write. -/
def Ctx.buffersFree (c : Ctx) (im : Image) : Bool :=
  (im.handles.filter fun h => h.mem == 6 && h.cls == 1).all fun h =>
    let second := (c.gran (.offBlock h.tid)).cur.contains 0
    match c.madeCurrent.find (2 * h.tid + (1 - b2n second)) with
    | some j => (c.ring.cqHead + 2 ^ 31 - (j + 1)) % 2 ^ 31 < 2 ^ 30
    | none => true

/-- The bounds already admitted to a pitch in the period. -/
def PitchSt.boundsA (p : PitchSt) : Nat := natSum (p.admitted.map fun x => x.2.1)
/-- As above, the F part. -/
def PitchSt.boundsF (p : PitchSt) : Nat := natSum (p.admitted.map fun x => x.2.2)

/-- The checks of Table 2.4 for a slice of slot i against its budget (R35): of a whole period at a Bell, of the time that
remains late (R36). -/
def State.admitCheck (s : State) (i : Slot) (im : Image) (budget : Nat) : Admit :=
  let c := s.ctx i
  let p := s.pit c.policy.pitch
  if ceilDiv (im.commitTime * 2) 3 > s.bel.reserve then .reject 0x2010
  else if !boundFits im.boundA im.boundF 0 budget 30 then .reject 0x2011
  else if im.peakTokens > c.quota then .reject 0x2012
  else if im.peakTasks > 262144 - s.tasksReserved then .defer
  else if !c.buffersFree im then .defer
  else if !boundFits (p.boundsA + im.boundA) (p.boundsF + im.boundF) 0 budget s.fAdm then .defer
  else .accept

/-- The pitch of a core substitution in progress admits nothing (R344). -/
def State.substHolds (s : State) (p : Pitch) : Bool :=
  match s.errs.subst with
  | some x => (s.pit p).mask.getLsbD x.lcore.val
  | none => false

/-- A slice of the context is considered: it has a descriptor, no slice in service, and nothing bars it. A pitch that a core
substitution holds considers none, and is counted and decided for at the Bell like any other (R106). -/
def State.considered (s : State) (i : Slot) : Bool :=
  let c := s.ctx i
  c.state == .loaded && c.desc.isSome && c.slice.isNone && !c.barred && c.held.isNone && !c.awaits && c.evictOpen &&
  !c.installWait && !s.bel.installs.contains i && !s.copyWaits i && !s.substHolds c.policy.pitch

/-! ### Instantiation (R67, R172, R247) -/

/-- floor(log2) of a positive binary32 code. -/
def log2Code (m : Nat) : Int := if m / 2 ^ 23 % 256 = 0 then (log2 (m % 2 ^ 23) : Int) - 149 else (m / 2 ^ 23 % 256 : Int) - 127

/-- The exponent that admission chooses for a region of a layer (R172). -/
def Ctx.chooseG (c : Ctx) (layer : Nat) : Int :=
  match c.statCom.find layer with
  | some t => if t.wmax.toNat % 2 ^ 31 = 0 then -40 else log2Code (t.wmax.toNat % 2 ^ 31) - 32
  | none => -40

/-- The regions of slot i with a zero base take their new exponent. -/
def State.rechooseG (s : State) (i : Slot) : State :=
  let c := s.ctx i
  { s with cores := s.cores.map fun k => { k with regions := k.regions.map fun r =>
      if r.slot == i && r.baseZero then { r with g := c.chooseG r.layer } else r } }

/-- A ring inbox is emptied and opened (R247). -/
def Inbox.unshut (b : Inbox) : Inbox :=
  { b with isOpen := true, gen := b.gen + 1, head := 0, tail := 0, occ := 0, waitq := [] }

/-- The root instances, in ascending task index (R67). -/
def State.roots (s : State) (i : Slot) (l : List Nat) : State :=
  l.foldl (fun s t =>
    if (s.ctx i).slice.isNone then s else
    match s.create i t with
    | (s, none) => s
    | (s, some idx) => match s.mkt.tasks.find idx with | some e => s.testReady idx e | none => s) s

/-- The admitted slice of a context begins with a budget. -/
def State.instantiate (s : State) (i : Slot) (d : SubDesc) (im : Image) (budget : Nat) : State :=
  let det := s.cfg.det
  let s := s.modCtx i fun c => { c with
    igen := c.igen + 1, draining := false
    slice := some { gen := c.igen + 1, det := det, budget := budget, boundA := im.boundA, boundF := im.boundF, freeRun := if d.rerun then c.freeOn else c.freeReg }
    seed := if d.rerun then c.seed else c.seedReg, freeOn := if d.rerun then c.freeOn else c.freeReg
    flows := [], spillCursor := 0, spillq := [], spillLive := 0, spillSaid := false, recompSaid := false, arena := [], statRun := []
    hadSlice := true, tallyStep := c.step, blocked := 0 }
  let s := s.modPit (s.ctx i).policy.pitch fun p => { p with admitted := p.admitted ++ [(i, im.boundA, im.boundF)] }
  let s := s.rechooseG i
  let s : State := { s with cores := s.cores.map fun k => { k with inboxes := k.inboxes.map fun b => if b.slot == i then b.unshut else b } }
  let s := ((s.count 0x1A09 1).countBell fun t => (t.1, t.2.1, t.2.2.1, t.2.2.2 + 1)).hang (oMarket 0) 0 0x30 i.val (BitVec.ofNat 64 ((s.ctx i).igen.toNat <<< 18))
  let s := s.roots i im.roots
  if (s.ctx i).slice.isNone then s else
  let s := s.arrive (d.entries.map fun e => { slot := i, gen := (s.ctx i).igen, task := e.1, port := e.2.1, kind := 0, tok := e.2.2, level := (s.ctx i).policy.prio })
  let s := (s.ctxCores i).foldl (fun s c => s.recheckHeld c i) s
  s.retarget

/-- A slice of slot i is considered against a budget: whether it was admitted, and the state after. -/
def State.admitOne (s : State) (i : Slot) (budget : Nat) : Bool × State :=
  let c := s.ctx i
  match c.desc, c.image with
  | some d, some im =>
    match s.admitCheck i im budget with
    | .reject code => (false, s.endDesc i code)
    | .defer => (false, s.count 0x1A0A 1)
    | .accept =>
      if !c.boundOk im d.binds then (false, s.endDesc i 0x8104)
      else (true, s.instantiate i d im budget)
  | _, _ => (false, s)

/-- The contexts of a pitch in the order of R34: PRIO, then re-runs, then the order in which descriptors were read. -/
def State.admitOrder (s : State) (p : Pitch) : List Slot :=
  let key (i : Slot) : Nat × Nat × Nat :=
    match (s.ctx i).desc with
    | some d => (3 - (s.ctx i).policy.prio, 1 - b2n d.rerun, d.order)
    | none => (3, 1, 0)
  let le (a b : Slot) : Bool :=
    let x := key a
    let y := key b
    decide (x.1 < y.1) || (x.1 == y.1 && (decide (x.2.1 < y.2.1) || (x.2.1 == y.2.1 && decide (x.2.2 ≤ y.2.2))))
  ((s.residents p).filter s.considered).mergeSort le

/-- The BELL trace record of a Bell (Table 16.10), made when its last pitch has been admitted; its counts are those since the record
before it (DESIGN CHOICE, log entry 55). -/
def State.bellRecord (s : State) : State :=
  if !s.bel.open_ then s else
  let t := s.bel.tallyCounts
  let s : State := { s with bel := { s.bel with open_ := false, tallyCounts := (0, 0, 0, 0) } }
  s.trace 3 0x7F oCtl (bodyAt [(8, leBytes 8 s.bel.count.toNat), (16, leBytes 2 t.1), (18, leBytes 2 t.2.1), (20, leBytes 2 t.2.2.1), (22, leBytes 2 t.2.2.2)])

/-- Blocked Bells are counted after admission (R106). -/
def State.countBlocked (s : State) (p : Pitch) : State :=
  (s.residents p).foldl (fun s i => s.modCtx i fun c => { c with blocked := if c.isBlocked then c.blocked + 1 else 0 }) s

/-- ADMISSION: the pitch's part of a Bell after its kills and merges (R31, R34); after the last one's, the Market's decisions
for every pitch in ascending order (R106). -/
def State.admission (s : State) (p : Pitch) : State :=
  if !s.runs || !(s.pit p).admitDue then s else
  let s := (s.residents p).foldl (fun s i => s.modCtx i fun c => { c with merging := false }) (s.modPit p fun x => { x with admitDue := false })
  let s := (s.admitOrder p).foldl (fun s i =>
    (s.admitOne i (s.bellBudget i)).2) s
  let s := s.countBlocked p
  if allPitches.any (fun q => (s.pit q).admitDue) then s else (allPitches.foldl State.swapDecide s).bellRecord

/-- Late admission (R36): between Bells, once the pitch's admission is over. -/
def State.admitLate (s : State) (i : Slot) : State :=
  if !s.bel.running || (s.pit (s.ctx i).policy.pitch).admitDue || !s.considered i then s
  else (s.admitOne i (s.lateBudget i)).2

/-- SUBMIT_SLICE (R300). -/
def State.submitSlice (s : State) (r : Ring) : State :=
  s.descRow r 0x10 (some [.loaded]) (fun d _ _ => (le64 d 16).toNat % 4096 == 0 && (le64 d 24).toNat % 64 == 0) fun d c i s =>
    let n := (le16 d 32).toNat
    let k := (le16 d 34).toNat
    let bs := s.hostRead (le64 d 24).toNat (32 * n + 16 * k)
    let s := s.readReq true (le64 d 24).toNat (32 * n + 16 * k) (.ctx i)
    let es := entryRecords bs n
    let bd := bindRecords bs n k
    let step := (s.ctx i).step
    let vb := (s.ctx i).vbuf
    if es.any entryReserved || bd.any bindReserved then s.finish c 0x8101 step vb
    else if (bd.map bindOfBytes).any (fun b => b.2 % 64 ≠ 0) then s.finish c 0x8102 step vb
    else
      let im := (s.ctx i).image.getD {}
      let entries := es.map entryOfBytes
      let binds := bd.map bindOfBytes
      if !im.entriesOk entries then s.finish c 0x8103 step vb
      else if !(s.ctx i).boundOk im binds then s.finish c 0x8104 step vb
      else
        let sub : SubDesc := { comp := c, spill := (le64 d 16).toNat, param := (le64 d 24).toNat, entries := entries, binds := binds, order := s.hst.submits }
        let s := s.modCtx i fun c => { c with desc := some sub }
        ({ s with hst := { s.hst with submits := s.hst.submits + 1 } } : State).admitLate i

def execAdmission (p : Pitch) (s : State) : Host.Outcome State Fault Refusal := s.run fun s => s.admission p
def execImageInstall (i : Slot) (s : State) : Host.Outcome State Fault Refusal := s.run fun s => s.imageInstall i
def execBankPowerUpDone (core : PCore) (bank : Fin 24) (s : State) : Host.Outcome State Fault Refusal := s.run fun s => s.bankUpDone core bank
def execSubmitSlice (r : Ring) (s : State) : Host.Outcome State Fault Refusal := s.run fun s => s.submitSlice r

end Sys2Proof.Machine
end

