-- ==== Sys2Proof/Machine/Aes.lean ====
section
/-! DEFINITION. Sys2Proof/Machine/Aes.lean: AES-256-GCM, which R347 and R389 name without defining it: PRESUMED as FIPS 197
and NIST SP 800-38D define it (log entry 44). -/

namespace Sys2Proof.Machine

/-- Bytes added in GF(2^8). -/
def xorBytes (a b : List Byte) : List Byte := (a.zip b).map fun p => p.1 ^^^ p.2

/-- x × a in GF(2^8) modulo x^8 + x^4 + x^3 + x + 1. -/
def xtime (a : Byte) : Byte := if a.getLsbD 7 then (a <<< 1) ^^^ 0x1B else a <<< 1

/-- The product in GF(2^8); n bits of b are taken. -/
def byteMul : Nat → Byte → Byte → Byte
  | 0, _, _ => 0
  | n + 1, a, b => (if b.getLsbD 0 then a else 0) ^^^ byteMul n (xtime a) (b >>> 1)

/-- The 254th power: the inverse, 0 for 0. -/
def byteInv (a : Byte) : Byte :=
  let m := byteMul 8
  let a2 := m a a
  let a3 := m a2 a
  let a6 := m a3 a3
  let a12 := m a6 a6
  let a15 := m a12 a3
  let a30 := m a15 a15
  let a60 := m a30 a30
  let a120 := m a60 a60
  let a126 := m a120 a6
  let a127 := m a126 a
  m a127 a127

/-- The S-box. -/
def sbox (a : Byte) : Byte :=
  let b := byteInv a
  b ^^^ b.rotateLeft 1 ^^^ b.rotateLeft 2 ^^^ b.rotateLeft 3 ^^^ b.rotateLeft 4 ^^^ 0x63

/-- ShiftRows on 16 bytes held column by column. -/
def shiftRows (l : List Byte) : List Byte := (List.range 16).map fun i => (l[(i + 4 * (i % 4)) % 16]?).getD 0

/-- MixColumns. -/
def mixColumns (l : List Byte) : List Byte :=
  (List.range 16).map fun i =>
    let a (k : Nat) : Byte := (l[i / 4 * 4 + (i + k) % 4]?).getD 0
    xtime (a 0) ^^^ (xtime (a 1) ^^^ a 1) ^^^ a 2 ^^^ a 3

/-- The words of the key schedule of a 256-bit key, in reverse order, from word i on; fuel. -/
def expandKey : Nat → Nat → Byte → List (List Byte) → List (List Byte)
  | 0, _, _, l => l
  | f + 1, i, rc, l =>
    let prev := l.headD []
    let old := (l[7]?).getD []
    let t := if i % 8 = 0 then
        match (prev.drop 1 ++ prev.take 1).map sbox with
        | b :: r => (b ^^^ rc) :: r
        | [] => []
      else if i % 8 = 4 then prev.map sbox else prev
    expandKey f (i + 1) (if i % 8 = 0 then xtime rc else rc) (xorBytes old t :: l)

/-- The 15 round keys of a 256-bit key. -/
def roundKeys (key : List Byte) : List (List Byte) :=
  let w := ((List.range 8).map fun i => (key.drop (4 * i)).take 4).reverse
  let all := (expandKey 52 8 1 w).reverse
  (List.range 15).map fun i => ((all.drop (4 * i)).take 4).flatten

/-- AES-256 on one block. -/
def aesBlock (key blk : List Byte) : List Byte :=
  match roundKeys key with
  | [] => blk
  | k0 :: ks =>
    let mid := (ks.take 13).foldl (fun s k => xorBytes (mixColumns (shiftRows (s.map sbox))) k) (xorBytes blk k0)
    xorBytes (shiftRows (mid.map sbox)) ((ks[13]?).getD [])

/-- Multiplication in GF(2^128) with the bit order of GCM; n bits of x are taken, most significant first. -/
def gcmMul (n : Nat) (x v z : BitVec 128) : BitVec 128 :=
  match n with
  | 0 => z
  | n + 1 =>
    let z := if x.getLsbD n then z ^^^ v else z
    gcmMul n x (if v.getLsbD 0 then (v >>> 1) ^^^ BitVec.ofNat 128 (0xE1 <<< 120) else v >>> 1) z

/-- A big-endian block of 16 bytes. -/
def beBlock (l : List Byte) : BitVec 128 := BitVec.ofNat 128 (leNat (l ++ List.replicate (16 - l.length) 0).reverse)

/-- The 16 bytes of a block, most significant first. -/
def gcmBytes (b : BitVec 128) : List Byte := (leBytes 16 b.toNat).reverse

/-- A byte string cut into blocks of 16, the last filled with zero. -/
def cut16 (l : List Byte) : List (BitVec 128) := (List.range (ceilDiv l.length 16)).map fun i => beBlock ((l.drop (16 * i)).take 16)

/-- GHASH of authenticated data and ciphertext. -/
def ghash (h : BitVec 128) (aad c : List Byte) : BitVec 128 :=
  let len := BitVec.ofNat 128 ((8 * aad.length) <<< 64 ||| 8 * c.length)
  (cut16 aad ++ cut16 c ++ [len]).foldl (fun y b => gcmMul 128 (y ^^^ b) h 0) 0

/-- Counter block n of a 12-byte IV. -/
def counterBlock (iv : List Byte) (n : Nat) : List Byte := iv ++ (leBytes 4 n).reverse

/-- The ciphertext of a plaintext, and the plaintext of a ciphertext. -/
def gcmStream (key iv text : List Byte) : List Byte :=
  (List.range (ceilDiv text.length 16)).flatMap fun i =>
    xorBytes ((text.drop (16 * i)).take 16) (aesBlock key (counterBlock iv (i + 2)))

/-- The 16-byte tag of AES-256-GCM. -/
def gcmTag (key iv aad cipher : List Byte) : List Byte :=
  let h := beBlock (aesBlock key (List.replicate 16 0))
  gcmBytes (ghash h aad cipher ^^^ beBlock (aesBlock key (counterBlock iv 1)))

end Sys2Proof.Machine
end

