-- ==== Sys2Proof/Machine/Select.lean ====
section
/-! DEFINITION. Sys2Proof/Machine/Select.lean: the Market's selection and dispatch (R80 to R87), pre-emption (R86), and the
forced reset of a queue whose duplicated pointers differ (R243). -/

namespace Sys2Proof.Machine

/-! ### Candidates and cores -/

/-- The entries that selection examines: the first 8 of each ready list of a pitch, highest level first (R80); in ranked
dispatch the earliest item of the highest level alone (R84). Nothing of a linked slice that waits for its decision is
dispatched (R31, R44): such an item stays in its place, and in ranked dispatch it lets nothing pass. -/
def State.candidates (s : State) (p : Pitch) : List (Nat × TaskEnt) :=
  let l := [3, 2, 1, 0].flatMap fun l => (s.readyAt (4 * p.val + l)).take 8
  (if bit (s.pit p).mode 0 then l.take 1 else l).filterMap fun i =>
    match s.mkt.tasks.find i with
    | some e => if (s.ctx e.slot).held.isNone then some (i, e) else none
    | none => none

/-- A core of a pitch is free: no instance has been selected for it, and its sequencer halts (push) or is in TAKE (pull). -/
def State.coreFree (s : State) (p : Pitch) (c : PCore) : Bool :=
  let q := (s.core c).seq
  q.slot.isNone && q.mode == (if bit (s.pit p).mode 1 then .take else .halt) &&
  (bit (s.pit p).mode 1 || !s.mkt.tasks.any fun e => decide (3 ≤ e.2.state) && e.2.core == c.val && decide ((s.ctx e.2.slot).policy.pitch = p))

/-- The free cores of a pitch, ascending in logical number, each with its image-core number. -/
def State.freeCores (s : State) (p : Pitch) : List (PCore × Nat) :=
  ((s.pitchCores p).zipIdx).filter fun c => s.coreFree p c.1

/-- The core that a candidate is bound to: its AFFINITY, or its ordered flow's core (R81, R82). -/
def State.boundTo (s : State) (p : Pitch) (e : TaskEnt) : Option PCore :=
  if e.rcd.affinity ≠ 0xFF then s.imageCore p e.rcd.affinity
  else if e.rcd.ord ≠ 0 then (s.ctx e.slot).flows.find e.rcd.ord else none

/-- A candidate is bound at all. -/
def State.isBound (s : State) (e : TaskEnt) : Bool :=
  e.rcd.affinity != 0xFF || (e.rcd.ord != 0 && ((s.ctx e.slot).flows.find e.rcd.ord).isSome)

/-- Whether an atomic flow is in service (R81). -/
def State.atomicBusy (s : State) (e : TaskEnt) : Bool :=
  e.rcd.atomic != 0 && s.mkt.tasks.any fun t => t.2.slot == e.slot && t.2.rcd.atomic == e.rcd.atomic && decide (3 ≤ t.2.state)

/-- Whether an ordered flow is bound to another core than the one served (R81). -/
def State.flowElsewhere (s : State) (e : TaskEnt) (c : PCore) : Bool :=
  e.rcd.ord != 0 && match (s.ctx e.slot).flows.find e.rcd.ord with | some b => b != c | none => false

/-- A candidate may run on a core of its pitch, image core number ic (R81, R83). -/
def State.canRun (s : State) (p : Pitch) (e : TaskEnt) (c : PCore) (ic : Nat) : Bool :=
  !s.atomicBusy e && !s.flowElsewhere e c &&
  (if s.isBound e then s.boundTo p e == some c
   else decide (ic < match (s.ctx e.slot).image with | some im => im.cores | none => 0))

/-- A member of a bound ordered flow whose AFFINITY is another core (R82). -/
def State.flowConflict (s : State) (p : Pitch) (e : TaskEnt) : Bool :=
  e.rcd.ord != 0 && e.rcd.affinity != 0xFF &&
  match (s.ctx e.slot).flows.find e.rcd.ord with | some b => s.imageCore p e.rcd.affinity != some b | none => false

/-- Of the eligible members of a candidate's ordered flow among the items examined, the one with the lowest task index: it
is dispatched before the others (R82), on whatever core it may run. -/
def State.flowFirst (s : State) (l : List (Nat × TaskEnt)) (x : Nat × TaskEnt) : Nat × TaskEnt :=
  if x.2.rcd.ord = 0 then x else
  (l.filter fun y => y.2.slot == x.2.slot && y.2.rcd.ord == x.2.rcd.ord && !s.atomicBusy y.2).foldl
    (fun a y => if y.2.task < a.2.task then y else a) x

/-- The instance that native selection gives a free core (R83). A candidate whose flow has an earlier member gives its turn
to that member, or is passed over where the member runs on another core. The first 8 items of a list are those that it holds
when the core is served, so one that a dispatch of the same cycle has moved up counts (DESIGN CHOICE, log entry 75). -/
def State.pickNative (s : State) (p : Pitch) (c : PCore) (ic : Nat) : Option (Nat × TaskEnt) :=
  let l := s.candidates p
  let can (x : Nat × TaskEnt) : Bool := s.canRun p x.2 c ic && s.canRun p (s.flowFirst l x).2 c ic
  match s.mkt.reserved.get p with
  | some (r, cand) =>
    if r = c then (l.find? fun x => x.1 == cand && can x).map (s.flowFirst l)
    else ((l.find? fun x => s.isBound x.2 && can x && x.1 != cand).or
          (l.find? fun x => !s.isBound x.2 && can x && x.1 != cand)).map (s.flowFirst l)
  | none => ((l.find? fun x => s.isBound x.2 && can x).or (l.find? fun x => !s.isBound x.2 && can x)).map (s.flowFirst l)

/-! ### Dispatch (R85, R87) -/

/-- Pre-emption is possible in a pitch: PREEMPT and push mode (R86). -/
def State.preempts (s : State) (p : Pitch) : Bool := bit (s.pit p).mode 2 && !bit (s.pit p).mode 1

/-- The dispatch record of an instance (Table 4.4). -/
def State.dispatchRecord (s : State) (idx : Nat) (e : TaskEnt) : DispatchRec :=
  let t := e.rcd
  let base := (s.ctx e.slot).kernBase / 4
  let toks := e.list.filterMap fun k => s.mkt.matching.find k
  let w (n : Nat) : W32 := BitVec.ofNat 32 n
  { words := [w (e.gen.toNat <<< 20 ||| e.level <<< 18 ||| e.task), w (e.dataMask.toNat <<< 16 ||| e.slot.val),
      w (((t.kernel + base) % 16384) <<< 16 ||| t.ports), w (t.atomic <<< 16 ||| t.ord <<< 8 ||| t.layer),
      t.arg.extractLsb' 0 32, t.arg.extractLsb' 32 32, w (t.nout <<< 8 ||| t.npred), w (b2n e.rerun)]
    tokens := (List.range t.ports).map fun p => ((toks.find? fun m => m.port == p).map (·.tok)).getD {}
    idx := idx, slot := e.slot.val, recomp := t.recomp }

/-- Retention at dispatch: within the quota, or with margin left in the pool (R89). -/
def State.retains (s : State) (p : Pitch) (e : TaskEnt) : Bool :=
  s.preempts p && (decide (s.mkt.live e.slot + s.mkt.ret e.slot ≤ (s.ctx e.slot).quota) || decide (s.poolFree > s.mkt.poolMargin))

/-- An instance is dispatched to a core (R85, R87, Table 4.6). -/
def State.dispatchTo (s : State) (p : Pitch) (c : PCore) (idx : Nat) (e : TaskEnt) : State :=
  let keep := s.retains p e
  let rcd := s.dispatchRecord idx e
  let n := s.listOf e
  let s := s.setReady n ((s.readyAt n).filter (· != idx))
  let s := s.taken 0 n
  let s : State := if keep then
      { s with mkt := { s.mkt with matching := s.mkt.matching.map fun m => if e.list.contains m.1 then (m.1, { m.2 with retained := true }) else m } }
    else s.freeMatch e.list
  let e' : TaskEnt := { e with
    state := if keep then 3 else 4, core := c.val, order := s.mkt.order, retained := keep, list := if keep then e.list else [] }
  let s := s.putTask idx e'
  let s : State := { s with mkt := { s.mkt with order := s.mkt.order + 1 } }
  let s := if e.rcd.ord = 0 then s else s.modCtx e.slot fun k => { k with flows := if (k.flows.find e.rcd.ord).isSome then k.flows else k.flows.insert e.rcd.ord c }
  let s := s.modSeq c fun q => { q with slot := some rcd }
  let s := s.count 0x1A00 1
  let s := s.hang (oMarket 0) 0 0x31 e.slot.val (mktData e')
  s.trace 5 e.slot.val (oMarket 0) (bodyAt [(8, leBytes 4 e.task), (12, leBytes 2 e.gen.toNat), (14, [BitVec.ofNat 8 c.val]),
    (15, [BitVec.ofNat 8 e.level]), (16, [BitVec.ofNat 8 (b2n e.rerun)])])

/-- Native dispatch of a pitch with n dispatch slots left: its free cores in ascending number (R83). -/
def State.nativePitch (s : State) (p : Pitch) : List (PCore × Nat) → Nat → State × Nat
  | [], n => (s, n)
  | (c, ic) :: t, n =>
    if n = 0 then (s, 0) else
    match s.pickNative p c ic with
    | some (idx, e) => (s.dispatchTo p c idx e).nativePitch p t (n - 1)
    | none => s.nativePitch p t n

/-- Ranked dispatch of a pitch: the earliest item of the highest level that is not empty (R84). -/
def State.rankedPitch (s : State) (p : Pitch) (n : Nat) : State × Nat :=
  match s.candidates p with
  | [] => (s, n)
  | x :: _ =>
    let can (c : PCore × Nat) : Bool := s.canRun p x.2 c.1 c.2 &&
      match s.mkt.reserved.get p with | some (r, cand) => r != c.1 || cand == x.1 | none => true
    match (s.freeCores p).find? can with
    | some c => if n = 0 then (s, 0) else (s.dispatchTo p c.1 x.1 x.2, n - 1)
    | none => (s, n)

/-! ### Pre-emption (R86) -/

/-- The victim for a candidate: an instance in STATE 3 at a level below, on its own core or one of its image cores; the
lowest level, then the most recent dispatch, then the highest core number. -/
def State.victim (s : State) (p : Pitch) (e : TaskEnt) : Option (Nat × TaskEnt) :=
  let cores := (s.pitchCores p).zipIdx
  let ok (v : Nat × TaskEnt) : Bool :=
    decide (v.2.state = 3) && decide (v.2.level < e.level) && cores.any fun c => c.1.val == v.2.core && s.canRun p e c.1 c.2
  let rank (v : Nat × TaskEnt) : Nat := (cores.findIdx? fun c => c.1.val == v.2.core).getD 0
  let better (a b : Nat × TaskEnt) : Bool :=
    decide (a.2.level < b.2.level) || (decide (a.2.level = b.2.level) && (decide (a.2.order > b.2.order) ||
      (decide (a.2.order = b.2.order) && decide (rank a > rank b))))
  match s.mkt.tasks.filter ok with
  | [] => none
  | v :: t => some (t.foldl (fun a b => if better b a then b else a) v)

/-- The eligible candidates of a pitch that find no core, in selection order; in ranked dispatch only the first (R84, R86).
One that a free core could take, left over only because the dispatch slots of the cycle ran out, looks for no victim. -/
def State.searchers (s : State) (p : Pitch) : List (Nat × TaskEnt) :=
  let l := s.candidates p
  (if bit (s.pit p).mode 0 then l else l.filter fun x => (s.flowFirst l x).1 == x.1).filter fun x =>
    !s.atomicBusy x.2 && (s.mkt.reserved.get p).map (·.2) != some x.1 && !(s.freeCores p).any fun c => s.canRun p x.2 c.1 c.2

/-- The Market looks for a victim for the first candidate that has one, and sends its core a kill. In ranked dispatch the
only candidate of the cycle has found its core where one was dispatched, and nothing is sought. -/
def State.preemptPitch (s : State) (p : Pitch) (dispatched : Bool) : State :=
  if !s.preempts p || (s.mkt.preempt.get p).isSome || (bit (s.pit p).mode 0 && dispatched) then s else
  match (s.searchers p).findSome? fun x => (s.victim p x.2).map fun v => (x, v) with
  | none => s
  | some (x, v) =>
    match core? v.2.core with
    | none => s
    | some c =>
      let s : State := { s with mkt := { s.mkt with preempt := s.mkt.preempt.put p (some { victim := v.1, cand := x.1, core := c }) } }
      (s.modSeq c fun q => { q with killReq := true }).countCore c 26 1

/-- One pitch of the rotation: a flow conflict among its candidates first (R82), then its dispatches, then pre-emption. A
conflicting member faults as soon as it is among the items examined, and the pitch dispatches nothing in that cycle: R82
names no moment (DESIGN CHOICE, log entry 75). -/
def State.selectPitch (s : State) (p : Pitch) (n : Nat) : State × Nat :=
  if (s.pit p).state ≠ 2 then (s, n) else
  match (s.candidates p).find? fun x => s.flowConflict p x.2 with
  | some x => (s.teardown x.2.slot 0x3108 0 (oMarket 0), n)
  | none =>
    -- R86 reserves the core for one selection, whether or not this cycle has a dispatch slot left for the pitch (DESIGN CHOICE,
    -- log entry 75).
    let had := (s.mkt.reserved.get p).isSome
    let (s, m) := if bit (s.pit p).mode 0 then s.rankedPitch p n else s.nativePitch p (s.freeCores p) n
    let s : State := if had then { s with mkt := { s.mkt with reserved := s.mkt.reserved.put p none } } else s
    (s.preemptPitch p (m < n), m)

/-- The pitches from the rotation's start on. -/
def rotated (n : Nat) : List Pitch := (List.range 16).map fun i => ⟨(n + i) % 16, Nat.mod_lt _ (by decide)⟩

/-- One fabric cycle of selection: four dispatches at most, over the pitches in rotation (R84, R88). A pitch takes all the
slots that it can use before the next one is served, and after a cycle in which no pitch was served the rotation starts
where it last did: R84 names the start after a cycle that served one alone (DESIGN CHOICE, log entry 75). -/
def State.select (s : State) : State :=
  let r := (rotated s.mkt.rotation).foldl (fun (a : State × Nat × Option Nat) p =>
    let (t, n) := a.1.selectPitch p a.2.1
    (t, n, if n < a.2.1 then a.2.2.or (some p.val) else a.2.2)) (s, 4, none)
  match r.2.2 with
  | some first => { r.1 with mkt := { r.1.mkt with rotation := (first + 1) % 16 } }
  | none => r.1

/-- PREEMPT_ACK of the core that a kill was sent to: void after DONE, refused after an output-side effect, else the
instance is abandoned, its victim goes to the head of its level, and the core is reserved for the candidate. -/
def State.preemptAck (s : State) (c : PCore) : State :=
  if !s.runs then s else
  match allPitches.find? fun p => match s.mkt.preempt.get p with | some x => x.core == c | none => false with
  | none => s
  | some p =>
    match s.mkt.preempt.get p with
    | none => s
    | some x =>
      let clear (s : State) : State := ({ s with mkt := { s.mkt with preempt := s.mkt.preempt.put p none } } : State).modSeq c fun q => { q with killReq := false }
      let q := (s.core c).seq
      match s.mkt.tasks.find x.victim with
      | none => clear s
      | some e =>
        let mine := match q.inst, q.slot with | some i, _ => i.idx == x.victim && q.mode != .atTake | none, some r => r.idx == x.victim | none, none => false
        let early := match q.inst with | some _ => q.preemptible | none => true
        if !mine || !early || e.state ≠ 3 then clear s else
        let s := s.hang (oCore c) 0 0x06 e.slot.val (BitVec.ofNat 64 (q.pc.toNat ||| e.task <<< 18 ||| e.gen.toNat <<< 36))
        let s := s.modCore c fun k =>
          let gone := (k.cmds.filterMap (·.seq))
          ({ k with
            seq := { k.seq.abandon .halt with slot := none }
            queues := Tab.fill 4 []
            wins := k.wins.map fun w => match q.inst with | some i => if w.isOpen && w.owner == some i then w.shut else w | none => w
            relSkip := k.relSkip ++ gone } : Core).skipSeq
        let s := if q.inst.isSome then s.modCore c fun k => k.unfill c else s
        let s : State := { s with mkt := { s.mkt with matching := s.mkt.matching.map fun m => if e.list.contains m.1 then (m.1, { m.2 with retained := false }) else m } }
        let s := s.putTask x.victim { e with state := 2, rerun := true, retained := false }
        let s := s.setReady (s.listOf e) (x.victim :: s.readyAt (s.listOf e))
        let s := ((s.count 0x1A03 1).countCtx e.slot 19 1).traceRetire e 2
        let s := (clear s).releaseHold
        { s with mkt := { s.mkt with reserved := s.mkt.reserved.put p (some (c, x.cand)) } }

/-! ### Forced reset of a queue (R241, R243) -/

/-- The number of a queue instance in reports: KIND and index (R236). -/
def queueId (q : QueueRef) : Nat := q.kind.toNat <<< 12 ||| q.index.toNat

/-- The report of a reset: the instance and its owner (R236, R243). -/
def resetDetail (q : QueueRef) (count : Nat) : BitVec 128 :=
  BitVec.ofNat 128 ((queueId q) ||| (match q.owner with | some i => i.val | none => 0x7F) <<< 16 ||| count <<< 32)

/-- QUEUE_RESET of an instance shared by all contexts. -/
def State.noteReset (s : State) (q : QueueRef) (count : Nat := 0) : State :=
  s.report { code := 0x6001, origin := oCtl, detail := resetDetail q count }

/-- Contexts torn down under R243. -/
def State.tearAll (s : State) (q : QueueRef) (l : List Slot) (count : Nat := 0) : State :=
  l.foldl (fun s i => s.teardown i 0x6001 (resetDetail q count)) s

/-- The queue of a slot's own was reset: its context is torn down with QUEUE_RESET; where the slot is FREE, the reset is reported
alone (R243). -/
def State.tearOwner (s : State) (q : QueueRef) (i : Slot) (count : Nat := 0) : State :=
  if (s.ctx i).state = .free then s.report { code := 0x6001, slot := i.val, origin := oCtl, detail := resetDetail q count }
  else s.tearAll q [i] count

/-- The completion egress of a slot loses what it holds: no entry is written, and the descriptors' handling is over (R296). -/
def State.loseComps (s : State) (i : Slot) : State :=
  let lost := s.ev.held.filter (·.inEgress i)
  let s : State := { s with ev := { s.ev with held := s.ev.held.filter fun h => !h.inEgress i } }
  lost.foldl (fun s h => if h.comp.type = 1 then s else s.advance h.comp) s

/-- The event egress loses what it holds (Table 11.4). -/
def State.loseEvents (s : State) : State :=
  let lost := s.ev.high.length + s.ev.low.length
  ({ s with ev := { s.ev with high := [], low := [], lost := s.ev.lost + lost } } : State).count 0x1A46 lost

/-- The Tally egress loses what it holds. -/
def State.loseTallies (s : State) : State :=
  ({ s with ev := { s.ev with tallies := [] } } : State).count 0x1A47 s.ev.tallies.length

/-- The trace egress loses what it holds, and its epoch advances. -/
def State.loseTrace (s : State) : State :=
  let recs := s.trc.records
  (({ s with trc := { s.trc with ring := [], beat := 0, epoch := s.trc.epoch + 1 } } : State).traceLose recs).traceRefill

/-- The two copies of an instance's pointers differ: it is flushed (R241), and Table 11.4 follows. -/
def State.queueFlush (s : State) (q : QueueRef) : State :=
  let n := q.index.toNat
  match q.kind.toNat with
  | 0 =>
    if n ≥ 64 then s else
    let back := (s.mkt.tasks.filter fun e => e.2.state == 2 && s.listOf e.2 == n).map (·.1)
    ((s.noteReset q).bumpEpoch (queueId q)).setReady n back
  | 1 =>
    match core? n with
    | none => s
    | some c =>
      let s := (s.noteReset q).bumpEpoch (queueId q)
      let s : State := { s with mkt := { s.mkt with inq := s.mkt.inq.put c [], arrivals := s.mkt.arrivals.filter fun a => a.core != some c } }
      match s.pitchOf c with
      | some p => s.tearAll q ((s.residents p).filter fun i => (s.ctx i).slice.isSome)
      | none => s
  | 2 =>
    match core? (n / 16), q.owner with
    | some c, some i =>
      if (s.core c).inboxes.any fun b => b.slot == i && b.num == n % 16 then
        (s.modCore c fun k => { k with inboxes := k.inboxes.map fun b => if b.slot == i && b.num == n % 16 then b.shut else b }).tearAll q [i]
      else s
    | _, _ => s
  | 3 =>
    match core? n with
    | none => s
    | some c =>
      let held := (s.core c).reqq
      let s := ((s.noteReset q).bumpEpoch (queueId q)).modCore c fun k => { k with reqq := [] }
      s.tearAll q (allSlots.filter fun i => held.any fun h => h.dstSlot == i.val)
  | 4 =>
    match slot? n with
    | some i => ((s.modCtx i fun c => { c with spillq := [] }).bumpEpoch (queueId q)).tearOwner q i
    | none => s
  | 5 =>
    match slot? n with
    | some i => ((s.loseComps i).bumpEpoch (queueId q)).tearOwner q i (s.ev.held.filter (·.inEgress i)).length
    | none => s
  | 6 => (s.bumpEpoch (queueId q)).loseEvents.noteReset q
  | 7 => (s.bumpEpoch (queueId q)).loseTallies.noteReset q
  | 8 => s.loseTrace.noteReset q
  | _ => s

/-- A forced reset of a queue (R243); an instance that is now empty is no longer stale (R242). -/
def State.queueReset (s : State) (q : QueueRef) : State := (s.queueFlush (ownedRef q)).pruneStale

/-- DISPATCH_SELECT: one fabric cycle of the Market. Where the two copies of a queue's pointers differ in it, the queue is
reset (R243) and the cycle selects nothing. -/
def State.dispatchSelect (s : State) (upset : Option QueueRef) : State :=
  if !s.runs then s else
  match upset with
  | some q => s.queueReset q
  | none => s.select

/-! ### The commands -/

def execDispatchSelect (upset : Option QueueRef) (s : State) : Host.Outcome State Fault Refusal := s.run fun s => s.dispatchSelect upset
def execPreemptAck (core : PCore) (s : State) : Host.Outcome State Fault Refusal := s.run fun s => s.preemptAck core

end Sys2Proof.Machine
end

