-- ==== Sys2Proof/Machine/Spares.lean ====
section
/-! DEFINITION. Sys2Proof/Machine/Spares.lean: corrected and uncorrectable errors (R334 to R337), wear and spares (R341 to
R345), the repair map (R346, R347), and the closing of coalescing windows (R423). -/

namespace Sys2Proof.Machine

/-! ### Corrected errors (R334, R341) -/

/-- One more corrected error of an origin in the period: count, and the word and symbol of the first. -/
def State.countCe (s : State) (origin : W16) (addr sym : Nat) : State :=
  let e := match s.ev.ce.find origin.toNat with | some x => (x.1 + 1, x.2) | none => (1, addr, sym)
  { s with ev := { s.ev with ce := s.ev.ce.insert origin.toNat e } }

/-- MEM_CE once for each origin of the period, with the count (R334). -/
def State.reportCe (s : State) : State :=
  s.ev.ce.foldl (fun s e => s.report { code := 0x5001, origin := BitVec.ofNat 16 e.1, detail := Config.detailPack 0x5001 [e.2.1, e.2.2.1, e.2.2.2] })
    ({ s with ev := { s.ev with ce := [] } })

/-- n more errors in a CE window of w seconds at a time in ns: a window past its end starts anew. -/
def windowAdd (old : Option (Nat × Nat)) (n w time : Nat) : Nat × Nat :=
  match old with
  | some (k, t) => if time < t + w * 1000000000 then (k + n, t) else (n, time)
  | none => (n, time)

/-- Part number of a row of a scratch bank. -/
def partRow (bank row : Nat) : Nat := 1024 * bank + row
/-- Part number of a column group of a scratch bank: 0 to 35, and 36 its spare. -/
def partGroup (bank g : Nat) : Nat := 1024 * bank + 512 + g
/-- Part number of a physical engine column. -/
def partColumn (j : Nat) : Nat := 65536 + j

/-- A part of a core counts a corrected error; at its limit its trigger waits for a Bell. -/
def State.wear (s : State) (c : PCore) (part limit : Nat) : State :=
  let e := windowAdd ((s.core c).ceCount.find part) 1 s.errs.cewin.toNat s.clk.time
  s.modCore c fun k => { k with
    ceCount := k.ceCount.insert part e
    trigger := if decide (limit ≤ e.1) && !k.trigger.contains part then k.trigger ++ [part] else k.trigger }

/-- A row of a Market store counts a corrected error. -/
def State.wearMkt (s : State) (row : Nat) : State :=
  let e := windowAdd (s.mkt.ceCount.find row) 1 s.errs.cewin.toNat s.clk.time
  { s with mkt := { s.mkt with
      ceCount := s.mkt.ceCount.insert row e
      trigger := if decide (s.errs.thrMkt.toNat ≤ e.1) && !s.mkt.trigger.contains row then s.mkt.trigger ++ [row] else s.mkt.trigger } }

/-! ### Uncorrectable errors (Table 15.2) -/

/-- The memory of a core that a bank belongs to, and the byte address of a word of the bank in it. -/
def bankWord (bank : Nat) (word : Nat) : Nat × Nat :=
  let m := if bank < 12 then 0 else if bank < 18 then 1 else if bank < 20 then 2 else if bank < 22 then 4 else 3
  (m, (bank - firstBank m) * 524288 + 16 * word)

/-- What an uncorrectable word is, with its owner. -/
inductive UeOwner where
  | transient (i : Slot)
  | committed (i : Slot)
  | free
deriving DecidableEq, Repr

/-- Whether a byte address lies in a handle's extent in scratch. -/
def HEnt.covers (e : HEnt) (mem a : Nat) : Bool :=
  e.mem == mem && decide (e.base * 64 ≤ a) && decide (a < e.base * 64 + e.size * 256 * (if e.cls = 1 then 2 else 1))

/-- The owner of a scratch word in the cycle of detection. -/
def State.scratchOwner (s : State) (c : PCore) (mem a : Nat) : UeOwner :=
  let k := s.core c
  let live (i : Slot) : Bool := (s.ctx i).slice.isSome
  if mem = 3 ∨ mem = 4 then
    match k.regions.find? fun r => decide (8 * r.off ≤ a) && decide (a < 8 * (r.off + r.len)) with
    | some r => if mem = 4 || (s.ctx r.slot).merging then .committed r.slot else if live r.slot then .transient r.slot else .free
    | none => .free
  else
    match k.handles.find? fun e => e.covers mem a with
    | none => .free
    | some e =>
      let ctx := s.ctx e.slot
      if e.cls = 0 then (if live e.slot then .transient e.slot else .free)
      else if e.cls = 1 then
        let off := a - e.base * 64
        let second := decide (e.size * 256 ≤ off)
        let g := (off % (e.size * 256)) / 4096
        let x := ctx.gran (.scratch c e.h)
        if x.cur.contains g == second then .committed e.slot
        else if x.dirty.contains g && live e.slot then .transient e.slot else .free
      else .committed e.slot

/-- The owner by the three copies of a row's tag (R333); none: they all differ. -/
def tagOwner (t1 t2 t3 : BitVec 7) : Option UeOwner :=
  let of (t : BitVec 7) : UeOwner := match slot? t.toNat with | some i => .transient i | none => .free
  if t1 = t2 || t1 = t3 then some (of t1) else if t2 = t3 then some (of t2) else none

/-- Words of one entry of a shared RAM. -/
def entryWords (n : Nat) : Nat := max 1 (Config.entryWords n)

/-- The item of a list of parts, each with its size, that holds place a where the parts lie one after the other. -/
def partAt {α : Type} : List (α × Nat) → Nat → Option α
  | [], _ => none
  | (x, n) :: t, a => if a < n then some x else partAt t (a - n)

/-- The slot of a message of a Market input queue. -/
def MktMsg.slot : MktMsg → Slot
  | .post i _ _ => i.slot
  | .retire i _ _ => i.slot

/-- The slot whose kernel section holds a byte of a core's instruction memory (R63). -/
def State.kernelOwner (s : State) (c : PCore) (a : Nat) : Option Slot :=
  allSlots.find? fun i => match (s.ctx i).image with
    | some im => (s.ctx i).state != .torn && (s.ctxCores i).contains c && decide ((s.ctx i).kernBase ≤ a) && decide (a < (s.ctx i).kernBase + roundUp im.kernelLen 256)
    | none => false

/-- The slot that a row of a shared RAM is allocated to, none for a free row (R333): of the entry that State holds at that place of the
task store, the matching store, a handle table or a kernel section; of edge memory, blocks of 64 entries by ascending slot; of a
release buffer and the middle stores, items in their order (DESIGN CHOICE, log entry 82). -/
def State.rowOwner (s : State) : RamLoc → Option Slot
  | .coreShared c ram a _ _ =>
    if ram = 0 then ((s.core c).handles[a.toNat / entryWords 4]?).map (·.slot)
    else if ram = 1 then s.kernelOwner c (16 * a.toNat)
    else partAt ((s.core c).relBuf.map fun x => (x.slot, x.bytes)) (16 * a.toNat)
  | .shared store a _ _ =>
    let n := a.toNat / entryWords store.toNat
    if store = 0 then (s.mkt.tasks.find n).map (·.slot)
    else if store = 1 then (s.mkt.matching.find n).map (·.slot)
    else if store = 2 then partAt (allSlots.map fun i => (i, match (s.ctx i).image with | some im => if (s.ctx i).state = .torn then 0 else im.edgeRoom | none => 0)) n
    else ((s.mkt.ready.toList.flatten.map fun e => (s.mkt.tasks.find e).map (·.slot)) ++
      s.mkt.inq.toList.flatten.map (fun m => some m.slot))[n]?.join
  | _ => none

/-- The owner tag of a row as it was written: its slot when it was allocated, and 0x7F when it was freed (R333). -/
def State.rowTag (s : State) (loc : RamLoc) : BitVec 7 := match s.rowOwner loc with | some i => BitVec.ofNat 7 i.val | none => 0x7F

/-- The three copies of the owner tag of a row of a shared RAM, as they are read (R333). -/
def State.rowTags (s : State) (loc : RamLoc) : Option (BitVec 7 × BitVec 7 × BitVec 7) :=
  let t := s.rowTag loc
  match loc with
  | .coreShared _ _ _ f1 f2 => some (t ^^^ f1, t ^^^ f2, t)
  | .shared _ _ f1 f2 => some (t ^^^ f1, t ^^^ f2, t)
  | _ => none

/-- The owner of a shared row by its tag; none: the three copies all differ. -/
def State.tagged (s : State) (loc : RamLoc) : Option UeOwner := match s.rowTags loc with | some t => tagOwner t.1 t.2.1 t.2.2 | none => some .free

/-- DETAIL of an uncorrectable word: address and syndrome. -/
def ueDetail (code : W16) (a : Nat) (w : BitVec 144) : BitVec 128 := Config.detailPack code [a, syndromeBits w]

/-- The effect of an uncorrectable word on its owner. -/
def State.ueEffect (s : State) (o : UeOwner) (origin : W16) (a : Nat) (w : BitVec 144) : State :=
  match o with
  | .transient i => s.teardown i 0x5002 (ueDetail 0x5002 a w) origin
  | .committed i => s.teardown i 0x5003 (ueDetail 0x5003 a w) origin
  | .free => s.report { code := 0x5004, origin := origin, detail := BitVec.ofNat 128 a }

/-- An uncorrectable word at a place (R336). -/
def State.uncorrectable (s : State) (loc : RamLoc) (w : BitVec 144) : State :=
  match loc with
  | .scratch c bank word =>
    let p := bankWord bank.val word.toNat
    let o := s.scratchOwner c p.1 p.2
    let s := if o = .free then s.modCore c fun k => k.setMem p.1 ((k.mem p.1).clear p.2 16) else s
    s.ueEffect o (oBank c bank.val) word.toNat w
  | .tableSlot c i a => s.ueEffect (match (s.core c).tables.get i with | some t => .transient t.owner | none => .free) (oCore c) a.toNat w
  | .coreShared c ram a f1 f2 =>
    match s.tagged (.coreShared c ram a f1 f2) with
    | some o => s.ueEffect o (oCore c) a.toNat w
    | none => s.fatalError
  | .shared store a f1 f2 =>
    match s.tagged (.shared store a f1 f2) with
    | some o => s.ueEffect o (if store.toNat < 3 then oMarket store.toNat else oCtl) a.toNat w
    | none => s.fatalError
  | .versionRow i a => s.ueEffect (.committed i) oCtl a.toNat w
  | .statistics i a => s.ueEffect (.committed i) oCtl a.toNat w
  | .completionEgress i a => s.ueEffect (.transient i) oCtl a.toNat w
  | .eventEgress _ => s.loseEvents
  | .tallyEgress _ => let n := s.ev.tallies.length; let s := s.loseTallies; { s with ev := { s.ev with tlost := s.ev.tlost + n } }
  | .traceEgress _ _ => s.loseTrace
  | .control _ => s.fatalError

/-- The column group in which a symbol of a word lies: the spare, 36, where the bank's map or a sweep that has passed the word
puts it (R343). -/
def Core.groupOf (k : Core) (bank word sym : Nat) : Nat :=
  if k.groupsUsed.any (fun x => x.1 == bank && x.2 == sym) ||
     k.sweeps.any (fun w => w.bank == bank && w.group == sym && decide (word < w.next)) then 36 else sym

/-- A corrected word at a place: its counters, and the wear of its parts. A scratch word is written back as corrected (R334);
of the other RAMs State holds what their records say, which the correction leaves as they are. -/
def State.correctedAt (s : State) (loc : RamLoc) (w : BitVec 144) (sym : Nat) : State :=
  match loc with
  | .scratch c bank word =>
    let p := bankWord bank.val word.toNat
    let s := s.modCore c fun k => k.setMem p.1 ((k.mem p.1).writeBytes p.2 (leBytes 16 (w.extractLsb' 0 128).toNat))
    let s := (s.count (0x1000 + 24 * c.val + bank.val) 1).countCe (oBank c bank.val) word.toNat sym
    (s.wear c (partGroup bank.val ((s.core c).groupOf bank.val word.toNat sym)) (fld s.errs.thrScr 31 16)).wear c
      (partRow bank.val (word.toNat / 64)) (fld s.errs.thrScr 15 0)
  | .tableSlot c _ a => (s.countCore c 24 1).countCe (oCore c) a.toNat sym
  | .coreShared c _ a _ _ => (s.countCore c 24 1).countCe (oCore c) a.toNat sym
  | .shared store a _ _ =>
    if store.toNat < 3 then ((s.count (0x1A06 + store.toNat) 1).countCe (oMarket store.toNat) a.toNat sym).wearMkt
      (32768 * store.toNat + a.toNat / entryWords store.toNat / 64)
    else (s.count 0x1A48 1).countCe oCtl a.toNat sym
  | .versionRow _ a => (s.count 0x1A48 1).countCe oCtl a.toNat sym
  | .statistics _ a => (s.count 0x1A48 1).countCe oCtl a.toNat sym
  | .completionEgress _ a => (s.count 0x1A48 1).countCe oCtl a.toNat sym
  | .eventEgress a => (s.count 0x1A48 1).countCe oCtl a.toNat sym
  | .tallyEgress a => (s.count 0x1A48 1).countCe oCtl a.toNat sym
  | .traceEgress _ a => (s.count 0x1A48 1).countCe oCtl a.toNat sym
  | .control a => (s.count 0x1A48 1).countCe oCtl a.toNat sym

/-- A word is read at a place: clean, corrected, or uncorrectable (R330, R334, R336). A row whose three tags all differ is
FATAL_ERROR, whatever its word (R333). -/
def State.readWord (s : State) (loc : RamLoc) (w : BitVec 144) : State :=
  if (s.tagged loc).isNone then s.fatalError else
  match eccDecode w with
  | .clean => s
  | .corrected sym err => s.correctedAt loc (eccFix w sym err) sym
  | .uncorrectable => s.uncorrectable loc w

/-- A command's read meets a changed word of scratch: whether the word is uncorrectable. -/
def upsetFatal (u : Upset) : Bool := decide (eccDecode u.w = .uncorrectable)

/-- A reader reads a changed word of scratch (R330, R336). -/
def State.readUpset (s : State) (u : Upset) : State := s.readWord (.scratch u.core u.bank u.word) u.w

/-- The array of at most 65,536 words that holds word a of a RAM of n words, by its number from `at'` on, the word's address in it, and
its words (R335). -/
def arrayOf (at' n a : Nat) : Nat × Nat × Nat := (at' + a / 65536, a % 65536, min 65536 (n - a / 65536 * 65536))

/-- The entries of a shared store (R71), and of the middle stores what Config gives. -/
def storeWords (st : Nat) : Nat :=
  if st = 0 then 262144 * entryWords 0 else if st = 1 then 65536 * entryWords 1 else if st = 2 then 1048576 * entryWords 2 else Config.arrayWords 5003

/-- The RAM array of a place, the word's address in it, and the words of the array: a bank of 512 KiB, a table slot of 24 KiB, an
instruction memory of 64 KiB, a release buffer of 16 KiB, a handle table of 256 entries, the stores of R71, a part of the trace ring of
4 MiB; what is not stated of a size is Config's (R331, R335; log entry 82). -/
def scrubPlace (loc : RamLoc) : Nat × Nat × Nat :=
  let sized (n a : Nat) : Nat × Nat × Nat := (n, a, Config.arrayWords n)
  match loc with
  | .scratch c b w => arrayOf (24 * c.val + b.val) 32768 w.toNat
  | .tableSlot c i a => arrayOf (2000 + 16 * c.val + i.val) 1536 a.toNat
  | .coreShared c r a _ _ => arrayOf (4000 + 4 * c.val + r.val) (if r = 0 then 256 * entryWords 4 else if r = 1 then 4096 else 1024) a.toNat
  | .shared st a _ _ => arrayOf (6000 + 256 * st.toNat) (storeWords st.toNat) a.toNat
  | .versionRow i a => sized (5100 + i.val) a.toNat
  | .statistics i a => sized (5200 + i.val) a.toNat
  | .completionEgress i a => sized (5300 + i.val) a.toNat
  | .eventEgress a => sized 5400 a.toNat
  | .tallyEgress a => sized 5401 a.toNat
  | .control a => sized 5402 a.toNat
  | .traceEgress p a => arrayOf (5410 + p.val) 65536 a.toNat

/-- The scrubber of an array has read its next word: the one after it is next, in ascending address. -/
def State.scrubbed (s : State) (loc : RamLoc) : State :=
  let p := scrubPlace loc
  if !bit s.errs.ctrl 0 || (s.errs.scrubAt.find p.1).getD 0 ≠ p.2.1 then s
  else { s with errs := { s.errs with scrubAt := s.errs.scrubAt.insert p.1 ((p.2.1 + 1) % p.2.2) } }

/-- SCRUB (R335): a word is read in an idle cycle or a forced one. While SCRUB_EN is 1 the word that is next in its array is
the scrubber's, which goes on to the one after it. A word anywhere else is one that a reader without a row of its own reads
(a fetch, SLD, the Market, an egress): R336 treats it in the same way (DESIGN CHOICE, log entry 82). Banks that are off are not
read. -/
def State.scrub (s : State) (loc : RamLoc) (w : BitVec 144) : State :=
  let off := match loc with | .scratch c bank _ => !(s.core c).bankOn.getLsbD bank.val | _ => false
  if !s.runs || off then s else (s.scrubbed loc).readWord loc w

/-! ### The repair map (Table 15.5, R346, R347) -/

/-- The header of a soft map up to its tag. -/
def mapHeader (count : Nat) (seq : W64) (iv dev : List Byte) : List Byte :=
  leBytes 4 0x50524D5A ++ leBytes 2 0x0100 ++ leBytes 2 count ++ leBytes 8 seq.toNat ++ iv ++ [0, 0, 0, 0] ++ dev

/-- The soft map is written whole to ERR.RMAP, or waits for an address (R347). The IV is a free value. -/
def State.writeMap (s : State) : State :=
  if s.errs.rmap = 0 then { s with errs := { s.errs with dirty := true } } else
  let (a, s) := s.takeFree
  let (b, s) := s.takeFree
  let iv := leBytes 8 (Config.freeValue a).toNat ++ leBytes 4 (Config.freeValue b).toNat
  let hd := mapHeader s.errs.soft.length s.errs.softSeq iv s.fuse.devId
  let es := s.errs.soft.flatMap fun e => leBytes 8 e.toNat
  let tag := gcmTag ((s.fuse.keys[s.cfg.keySlot]?).getD []) iv (hd ++ es) []
  let s := s.hostWrite s.errs.rmap.toNat (hd ++ tag ++ es) .rmap
  { s with errs := { s.errs with dirty := false, rmapSeq := s.errs.softSeq } }

/-- The soft map gains an entry: it is written, and the substitution reported (R347). -/
def State.addEntry (s : State) (e : W64) : State :=
  let s : State := { s with errs := { s.errs with soft := s.errs.soft ++ [e], softSeq := s.errs.softSeq + 1 } }
  s.writeMap.note 0x1003 s.errs.softSeq.toNat

/-- An entry of the repair map: its kind over its fields. -/
def mapEntry (kind fields : Nat) : W64 := BitVec.ofNat 64 (kind <<< 60 ||| fields)

/-- A trigger found no spare: reported once for each part (R345). -/
def State.exhaust (s : State) (e : W64) : State :=
  if s.errs.exhausted.contains e then s
  else ({ s with errs := { s.errs with exhausted := s.errs.exhausted ++ [e] } } : State).note 0x1004 e.toNat

/-- The physical lane that no logical lane of a port uses. -/
def Port.spareLane (p : Port) : Nat := ((List.range 9).find? fun l => !(List.range 8).any fun j => fld p.laneMap (4 * j + 3) (4 * j) == l).getD 8

/-- The lane map with a physical lane replaced by another. -/
def replaceLane (m : W32) (old new : Nat) : W32 :=
  BitVec.ofNat 32 (natSum ((List.range 8).map fun j => (let l := fld m (4 * j + 3) (4 * j); if l = old then new else l) <<< (4 * j)))

/-- What an entry of a map does to the block (R346). -/
def State.applyEntry (s : State) (e : W64) : State :=
  let pc := core? (fld e 22 16)
  match fld e 63 60, pc with
  | 1, some c =>
    match (if h : fld e 5 0 < 64 then some (⟨fld e 5 0, h⟩ : LCore) else none) with
    | some l =>
      let s : State := { s with cores := s.cores.map fun k => if k.lcore == some l then { k with lcore := none } else k }
      s.modCore c fun k => { k with lcore := some l }
    | none => s
  | 2, some c => s.modCore c fun k => { k with colsUsed := k.colsUsed ++ [(fld e 7 0, fld e 8 8)] }
  | 3, some c => s.modCore c fun k => { k with rowsUsed := k.rowsUsed ++ [(fld e 15 11, fld e 8 0, fld e 10 10)] }
  | 4, some c => s.modCore c fun k => { k with groupsUsed := k.groupsUsed ++ [(fld e 15 11, fld e 5 0)] }
  | 5, _ =>
    let p : LPort := ⟨fld e 9 8 % 4, Nat.mod_lt _ (by decide)⟩
    s.modPort p fun x => { x with laneMap := replaceLane x.laneMap (fld e 3 0) x.spareLane }
  | 6, _ => { s with mkt := { s.mkt with rowsUsed := s.mkt.rowsUsed ++ [(fld e 41 40, fld e 14 0, fld e 29 20)] } }
  | 7, some c => s.modCore c fun k => { k with retired := true, lcore := none }
  | _, _ => s

/-- Bits of an entry that its kind does not name, or a kind or field out of range. -/
def entryBad (e : W64) : Bool :=
  let named : Nat := match fld e 63 60 with
    | 1 => 0x7F003F | 2 => 0x7F01FF | 3 => 0x7FFDFF | 4 => 0x7FF83F | 5 => 0x30F | 6 => 0x3003FF07FFF | 7 => 0x7F0000 | _ => 0
  (fld e 59 0) &&& (2 ^ 60 - 1 - named) ≠ 0 ||
  match fld e 63 60 with
  | 1 => decide (72 ≤ fld e 22 16)
  | 2 => decide (72 ≤ fld e 22 16) || decide (130 ≤ fld e 7 0)
  | 3 => decide (72 ≤ fld e 22 16) || decide (24 ≤ fld e 15 11)
  | 4 => decide (72 ≤ fld e 22 16) || decide (24 ≤ fld e 15 11) || decide (36 ≤ fld e 5 0)
  | 5 => decide (9 ≤ fld e 3 0)
  | 6 => decide (3 ≤ fld e 41 40)
  | 7 => decide (72 ≤ fld e 22 16)
  | _ => true

/-- The physical core that an entry brings in or retires. -/
def entryCore (e : W64) : Option Nat := if fld e 63 60 = 1 || fld e 63 60 = 7 then some (fld e 22 16) else none

/-- An entry names a spare or a part that one of the hard map has used (R346). A core that the hard map has brought in (KIND 1)
or retired (KIND 7) cannot be brought in again, and one that it has retired cannot be retired again; a core that it has
brought in can be retired since. -/
def entryMeets (a b : W64) : Bool :=
  if (entryCore a).isSome then entryCore a == entryCore b && (fld a 63 60 == 1 || fld b 63 60 == 7) else
  fld a 63 60 == fld b 63 60 &&
  match fld a 63 60 with
  | 2 => fld a 22 16 == fld b 22 16 && (bit a 8 == bit b 8 || fld a 7 0 == fld b 7 0)
  | 3 => fld a 22 11 == fld b 22 11 && (bit a 10 == bit b 10 || fld a 8 0 == fld b 8 0)
  | 4 => fld a 22 11 == fld b 22 11
  | 5 => fld a 9 8 == fld b 9 8
  | 6 => fld a 41 40 == fld b 41 40 && (fld a 29 20 == fld b 29 20 || fld a 14 0 == fld b 14 0)
  | _ => fld a 22 16 == fld b 22 16

/-! ### Substitution at a Bell (R341) -/

/-- Column group of a bank: the sweep that ended at the Bell before is final (R343). -/
def State.endSweeps (s : State) (c : PCore) : State :=
  ((s.core c).sweeps.filter (·.done)).foldl (fun s w =>
    let s := s.modCore c fun k => { k with sweeps := k.sweeps.erase w, groupsUsed := k.groupsUsed ++ [(w.bank, w.group)] }
    s.addEntry (mapEntry 4 (c.val <<< 16 ||| w.bank <<< 11 ||| w.group))) s

/-- The lowest spare of n that a list of those in use leaves. -/
def freeSpare (n : Nat) (used : List Nat) : Option Nat := (List.range n).find? fun x => !used.contains x

/-- One substitution in a bank of a core: the column group first. -/
def State.substBank (s : State) (c : PCore) (b : Nat) : State :=
  let k := s.core c
  let drop (s : State) (part : Nat) : State := s.modCore c fun k => { k with trigger := k.trigger.erase part, ceCount := k.ceCount.erase part }
  match (List.range 37).find? fun g => k.trigger.contains (partGroup b g) with
  | some g =>
    if k.groupsUsed.any (fun x => x.1 == b) || k.sweeps.any (fun w => w.bank == b) then
      (drop s (partGroup b g)).exhaust (mapEntry 4 (c.val <<< 16 ||| b <<< 11 ||| g))
    else (drop s (partGroup b g)).modCore c fun k => { k with sweeps := k.sweeps ++ [{ bank := b, group := g }] }
  | none =>
    match (List.range 512).find? fun r => k.trigger.contains (partRow b r) with
    | some r =>
      let s := drop s (partRow b r)
      match freeSpare 2 ((k.rowsUsed.filter fun x => x.1 == b).map (·.2.2)) with
      | none => s.exhaust (mapEntry 3 (c.val <<< 16 ||| b <<< 11 ||| r))
      | some n =>
        let s := s.modCore c fun k => { k with rowsUsed := k.rowsUsed ++ [(b, r, n)] }
        s.addEntry (mapEntry 3 (c.val <<< 16 ||| b <<< 11 ||| n <<< 10 ||| r))
    | none => s

/-- One engine column of a core; without a spare the core is wanted replaced. -/
def State.substColumn (s : State) (c : PCore) : State :=
  let k := s.core c
  match (List.range 130).find? fun j => k.trigger.contains (partColumn j) with
  | none => s
  | some j =>
    let s := s.modCore c fun k => { k with trigger := k.trigger.erase (partColumn j) }
    match freeSpare 2 (k.colsUsed.map (·.2)) with
    | none => { s with errs := { s.errs with want := s.errs.want ++ [(c, true)] } }
    | some n =>
      let s := s.modCore c fun k => { k with colsUsed := k.colsUsed ++ [(j, n)] }
      s.addEntry (mapEntry 2 (c.val <<< 16 ||| n <<< 8 ||| j))

/-- Spare rows of a Market store (Table 15.4). -/
def mktSpares : Nat → Nat
  | 0 => 205
  | 1 => 52
  | _ => 820

/-- One row of a Market store. -/
def State.substMkt (s : State) (store : Nat) : State :=
  match s.mkt.trigger.find? fun r => r / 32768 == store with
  | none => s
  | some r =>
    let s : State := { s with mkt := { s.mkt with trigger := s.mkt.trigger.erase r, ceCount := s.mkt.ceCount.erase r } }
    match freeSpare (mktSpares store) ((s.mkt.rowsUsed.filter fun x => x.1 == store).map (·.2.2)) with
    | none => s.exhaust (mapEntry 6 (store <<< 40 ||| r % 32768))
    | some n =>
      let s : State := { s with mkt := { s.mkt with rowsUsed := s.mkt.rowsUsed ++ [(store, r % 32768, n)] } }
      s.addEntry (mapEntry 6 (store <<< 40 ||| n <<< 20 ||| r % 32768))

/-- The spare cores: neither retired nor serving a logical core. -/
def State.spareCores (s : State) : List PCore := allCores.filter fun c => !(s.core c).retired && (s.core c).lcore.isNone

/-- The logical core of a physical one moves to a spare, and the old core is retired (R344); a spare that joins a pitch in pull
mode enters TAKE (R215). -/
def State.moveCore (s : State) (old new : PCore) (l : LCore) : State :=
  let s := s.modCore old fun k => { k with lcore := none, retired := true }
  let s := s.modCore new fun k => { k with lcore := some l }
  let s := s.modSeq new fun q => if q.inst.isNone then { q with mode := s.idleMode new } else q
  (s.addEntry (mapEntry 1 (new.val <<< 16 ||| l.val))).addEntry (mapEntry 7 (old.val <<< 16))

/-- A core is retired and no spare takes its place: its logical core is absent (R344). -/
def State.loseCore (s : State) (c : PCore) (l : LCore) : State :=
  (({ s with errs := { s.errs with absent := s.errs.absent ++ [l] } } : State).modCore c fun k =>
    { k with lcore := none, retired := true }).addEntry (mapEntry 7 (c.val <<< 16))

/-- Every context of a pitch is torn down with CORE_LOST. -/
def State.coreLost (s : State) (p : Pitch) (c : PCore) : State :=
  (s.residents p).foldl (fun s i => s.teardown i 0x4041 0 (oCore c)) s

/-- A core that is wanted replaced at a Bell (R340, R344); copying takes two Bells. A core without a logical core that is
retired without a copy is no spare any more. -/
def State.substCore (s : State) (c : PCore) (copy : Bool) : State :=
  match (s.core c).lcore with
  | none =>
    if copy || (s.core c).retired then s
    else (s.modCore c fun k => { k with retired := true }).addEntry (mapEntry 7 (c.val <<< 16))
  | some l =>
    match s.pitchOf c, s.spareCores, copy with
    | none, new :: _, _ => s.moveCore c new l
    | none, [], _ => if copy then s.exhaust (mapEntry 1 (c.val <<< 16 ||| l.val)) else s.loseCore c l
    | some _, new :: _, true => { s with errs := { s.errs with subst := some { lcore := l, old := c, new := new } } }
    | some _, [], true => s.exhaust (mapEntry 1 (c.val <<< 16 ||| l.val))
    | some p, new :: _, false => (s.coreLost p c).moveCore c new l
    | some p, [], false => ((s.coreLost p c).loseCore c l).modPit p fun x => { x with state := 1 }

/-- The core substitutions of a Bell: one in progress moves on, else the first one wanted whose pitch has no install. -/
def State.substCores (s : State) : State :=
  match s.errs.subst with
  | some x =>
    if x.copied then { s with errs := { s.errs with subst := none } }
    else { s with errs := { s.errs with subst := some { x with copying := true } } }
  | none =>
    let ready (w : PCore × Bool) : Bool := match s.pitchOf w.1 with | some p => (s.pit p).install.isNone | none => true
    match s.errs.want.find? ready with
    | none => s
    | some w => ({ s with errs := { s.errs with want := s.errs.want.erase w } } : State).substCore w.1 w.2

/-- The aging monitors of a Bell (R341): a serving core below the limit is wanted replaced. -/
def State.readAging (s : State) : State :=
  let (n, s) := s.takeFree
  let low := allCores.filter fun c => (s.core c).lcore.isSome && !s.errs.want.contains (c, true) &&
    (match s.errs.subst with | some x => x.old != c | none => true) && decide (Config.agingMargin c n < s.errs.aging.toNat)
  { s with errs := { s.errs with want := s.errs.want ++ low.map fun c => (c, true) } }

/-- Every substitution of a Bell (R341), after the kills and merges; lanes follow R278. -/
def State.substitute (s : State) : State :=
  let s := allCores.foldl State.endSweeps s
  let s := if bit s.errs.ctrl 1 then
      let s := allCores.foldl (fun s c =>
        if (s.core c).trigger.isEmpty then s else ((List.range 24).foldl (fun s b => s.substBank c b) s).substColumn c) s
      ((List.range 3).foldl State.substMkt s).readAging
    else s
  s.substCores

/-! ### The commands -/

/-- SELFTEST (R342): the 130 column CRCs of a core's engine against the personality's; a mismatch counts when its repeat
mismatches too. Columns that are out of use are not judged. -/
def State.selftest (s : State) (c : PCore) (crcs : List W32) : State :=
  let k := s.core c
  if !s.runs || !bit s.errs.ctrl 2 || k.retired || s.pwr.gated || !((k.queues.at? 0).getD []).isEmpty || s.cfg.refs.length ≠ 130 then s else
  let inUse (j : Nat) : Bool := !(k.colsUsed.any fun x => x.1 == j) && (decide (j < 128) || k.colsUsed.any fun x => 128 + x.2 == j)
  let badCols := (List.range 130).filter fun j => inUse j && crcs[j]? != s.cfg.refs[j]?
  let sure := badCols.filter fun j => k.suspect.contains j
  s.modCore c fun k => { k with
    suspect := badCols.filter fun j => !sure.contains j
    trigger := k.trigger ++ (sure.map partColumn).filter fun p => !k.trigger.contains p }

/-- SWEEP (R343): the sweep of a bank reads its next word, as it stands in the RAM, with correction, and rewrites it with the spare
group; the sweep is final at the Bell after its last word. -/
def State.sweepWord (s : State) (c : PCore) (b : Fin 24) (w : BitVec 144) : State :=
  if !s.runs || !(s.core c).bankOn.getLsbD b.val then s else
  match (s.core c).sweeps.find? fun x => x.bank == b.val && !x.done with
  | none => s
  | some x =>
    (s.readWord (.scratch c b (BitVec.ofNat 15 x.next)) w).modCore c fun k => { k with
      sweeps := k.sweeps.map fun y => if y = x then { x with next := x.next + 1, done := decide (32767 ≤ x.next) } else y }

/-- CORE_COPY (R344), once no slice of the core's pitch is in service: the spare takes over the scratch, instruction memory and
tables of the core, and its logical core. COR.BANKFORCE is no part of that copy: each core keeps its own (DESIGN CHOICE, log
entry 84). The old core's banks are powered down at the Bell after, as R135 says. A word that the copy finds changed has its SCRUB
before it (log entry 82). -/
def State.coreCopy (s : State) (c : PCore) : State :=
  match s.errs.subst with
  | none => s
  | some x =>
    let busy := match s.pitchOf c with | some p => (s.residents p).any fun i => (s.ctx i).slice.isSome | none => false
    if !s.runs || x.old ≠ c || !x.copying || x.copied || busy then s else
    let o := s.core c
    let s := s.modCore x.new fun k => { k with
      imem := o.imem, weight := o.weight, act := o.act, psum := o.psum, delta := o.delta, base := o.base, bankOn := o.bankOn ||| k.bankOn
      bankUp := (o.bankUp ||| k.bankUp) &&& ~~~(o.bankOn ||| k.bankOn)
      handles := o.handles, regions := o.regions, inboxes := o.inboxes, wins := o.wins, reqq := o.reqq }
    let s : State := { s with ctxs := s.ctxs.map fun t => { t with ver := t.ver.map fun v => match v.1 with
      | .scratch k h => if k = c then (.scratch x.new h, v.2) else v
      | _ => v } }
    let s := s.modCore c fun k => { k with handles := [], regions := [], inboxes := [], reqq := [] }
    let s := s.moveCore c x.new x.lcore
    { s with errs := { s.errs with subst := some { x with copied := true } } }

/-- COALESCE_WINDOW_CLOSE (R423): the oldest window closes 4,096 fabric cycles after its first report. -/
def State.coalesceClose (s : State) : State :=
  match s.ev.windows with
  | [] => s
  | w :: t =>
    let s := s.advanceTo (s.clk.time + ceilDiv (2 * (w.first + 4096 - s.clk.cycle)) 3)
    ({ s with ev := { s.ev with windows := t } } : State).closeWindow w

def execScrub (loc : RamLoc) (w : BitVec 144) (s : State) : Host.Outcome State Fault Refusal := s.run fun s => s.scrub loc w
def execSelftest (core : PCore) (crcs : List W32) (s : State) : Host.Outcome State Fault Refusal := s.run fun s => s.selftest core crcs
def execSweep (core : PCore) (bank : SweepOf) (s : State) : Host.Outcome State Fault Refusal := s.run fun s => s.sweepWord core bank.bank bank.w
def execCoreCopy (core : PCore) (s : State) : Host.Outcome State Fault Refusal := s.run fun s => s.coreCopy core
def execCoalesceWindowClose (s : State) : Host.Outcome State Fault Refusal := s.run fun s => s.coalesceClose

end Sys2Proof.Machine
end

