-- ==== Sys2Proof/Machine/Bell.lean ====
section
/-! DEFINITION. Sys2Proof/Machine/Bell.lean: the Bell: version flip and commit (R31, R32), overruns (R37, R38), merges (R33),
format updates (R201), Tallies (R111, R112), polls and sleep (R293, R294), and what takes effect at a Bell. -/

namespace Sys2Proof.Machine

/-! ### Merge (R33, R170, R172) -/

/-- A sum that saturates at 64 bits, and whether it did. -/
def satSum (a b : Int) : Int × Bool :=
  let v := a + b
  if v > 9223372036854775807 then (9223372036854775807, true)
  else if v < -9223372036854775808 then (-9223372036854775808, true) else (v, false)

/-- The elements of a region that a memory lists. -/
def listedIn (m : Memory) (off len : Nat) : List Nat :=
  ((m.filter fun c => decide (8 * off ≤ c.1) && decide (c.1 < 8 * (off + len))).map fun c => c.1 / 8).eraseDups

/-- The merge of one region on one core: the base, and how many elements saturated. Elements with a zero delta are as they
were. -/
def mergeRegion (delta base : Memory) (off len : Nat) : Memory × Nat :=
  (listedIn delta off len).foldl (fun x j =>
    let v := satSum (gabRead x.1 j) (gabRead delta j)
    (gabWrite x.1 j v.1, x.2 + b2n v.2)) (base, 0)

/-- The merge of region n of slot i on a core: its base, its delta zeroed, whether the base is zero here, and the count of
saturated elements. -/
def Core.merge (k : Core) (i : Slot) (n : Nat) : Core × Nat :=
  match k.regions.find? fun r => r.slot == i && r.idx == n with
  | none => (k, 0)
  | some r =>
    let m := mergeRegion k.delta k.base r.off r.len
    let zero := (listedIn m.1 r.off r.len).isEmpty
    ({ k with
        base := m.1
        delta := k.delta.clear (8 * r.off) (8 * r.len)
        regions := k.regions.map fun x => if x.slot == i && x.idx == n then { x with baseZero := zero } else x }, m.2)

/-- BASE_ZERO of region n of slot i: its base is zero on every core that holds it, so that G is chosen alike on all (R172). -/
def State.agreeZero (s : State) (i : Slot) (n : Nat) : State :=
  let mine (r : RegSt) : Bool := r.slot == i && r.idx == n
  let zero := s.cores.toList.all fun k => k.regions.all fun r => !mine r || r.baseZero
  { s with cores := s.cores.map fun k => { k with regions := k.regions.map fun r => if mine r then { r with baseZero := zero } else r } }

/-- The merge of every region of a committing context, region by region, with GAB_SATURATED. Until the admission of its pitch
a word of its deltas that is found uncorrectable is one that the merge has met (Table 2.3, R336). -/
def State.mergeCtx (s : State) (i : Slot) : State :=
  match (s.ctx i).image with
  | none => s
  | some im =>
    let s := s.modCtx i fun c => { c with merging := true }
    (List.range im.regions.length).foldl (fun s n =>
      let r := (s.ctxCores i).foldl (fun x c =>
        let m := (x.1.core c).merge i n
        (x.1.modCore c fun _ => m.1, x.2 + m.2)) (s, 0)
      let s := r.1.agreeZero i n
      if r.2 = 0 then s else s.report { code := 0x2005, slot := i.val, origin := oCtl, detail := Config.detailPack 0x2005 [n, r.2] }) s

/-! ### Version flip (R32) and format update (R201) -/

/-- The granules that are current after a flip: a DIRTY granule changes CUR. -/
def Gran.flip (g : Gran) : Gran :=
  { cur := (g.cur.filter fun x => !g.dirty.contains x) ++ (g.dirty.filter fun x => !g.cur.contains x), dirty := [] }

/-- The flip of a committing context; of each host-memory tensor that it makes current, the completion that says so (R30). -/
def Ctx.flip (c : Ctx) : Ctx :=
  let idx := match c.desc with | some d => d.comp.idx | none => 0
  let changed : List Nat := match c.image with
    | some im => (im.hostVersioned.filter fun (h : HandleRec) => (c.gran (.offBlock h.tid)).dirty.contains 0).map (·.tid)
    | none => []
  let c : Ctx := { c with ver := c.ver.map fun v => (v.1, v.2.flip) }
  changed.foldl (fun c t =>
    { c with madeCurrent := c.madeCurrent.insert (2 * t + b2n ((c.gran (.offBlock t)).cur.contains 0)) idx }) c

/-- DIRTY of every granule of a context clears; CUR stands. -/
def Ctx.undirty (c : Ctx) : Ctx := { c with ver := c.ver.map fun v => (v.1, { v.2 with dirty := [] }) }

/-- cand of R201. -/
def fmtCand (l : LayerStat) (n limit : Nat) : Nat :=
  let h15 := (l.hist[15]?).getD 0
  if l.spec > 0 || limit * h15 > n then 2 else if limit * natSum (l.hist.drop 7) > n then 1 else 0

/-- update of R201; RUN is 3 bits, so that it wraps. -/
def fmtUpdate (f : FmtSt) (l : LayerStat) (n : Nat) : FmtSt :=
  let cw := fmtCand l n 1024
  let cn := fmtCand l n 4096
  if cw > f.fmt then { fmt := cw, run := 0 }
  else if cn < f.fmt then (if f.run + 1 = 4 then { fmt := cn, run := 0 } else { f with run := (f.run + 1) % 8 })
  else { f with run := 0 }

/-- The format states of a context after its statistics have become committed, each with its GFMT record (R202). -/
def State.updateFormats (s : State) (i : Slot) : State :=
  match (s.ctx i).image with
  | none => s
  | some im =>
    (List.range im.layers).foldl (fun s j =>
      match (s.ctx i).statCom.find j with
      | none => s
      | some l =>
        let n := natSum l.hist + l.spec
        if n = 0 then s else
        let old := ((s.ctx i).fmt.find j).getD {}
        let new := fmtUpdate old l n
        let cap (v : Nat) : List Byte := leBytes 4 (min v (2 ^ 32 - 1))
        let s := s.modCtx i fun c => { c with fmt := c.fmt.insert j new }
        s.trace 8 i.val oCtl (bodyAt
          [(8, [BitVec.ofNat 8 j]), (9, [BitVec.ofNat 8 (old.fmt ||| new.fmt <<< 2 ||| new.run <<< 4)]), (12, cap n), (16, cap l.spec),
           (20, cap ((l.hist[15]?).getD 0)), (24, cap (natSum (l.hist.drop 7)))])) s

/-! ### Commit and overrun -/

/-- The commit of a context's slice at a Bell, or by a decision: flip, step, statistics, merge, transient state gone, and
the completion of its SUBMIT_SLICE. -/
def State.commit (s : State) (i : Slot) : State :=
  let step := (s.ctx i).step
  let s := s.modCtx i fun c => { c.flip with step := c.step + 1, statCom := c.statRun, statRun := [], outcome := some (0, 0), votes := [], held := none, inDoubt := false, awaits := false }
  let s := s.updateFormats i
  let s := s.mergeCtx i
  let held := s.heldReqs i
  let s : State := { s with
    cores := s.cores.mapFinIdx fun n k h => k.endSlice i (s.idleMode ⟨n, h⟩)
    mkt := s.mkt.endSlice i }
  let s := (s.dropReqs held).bumpEpoch (0x4000 + i.val)
  let s := s.modCtx i fun c => { c with
    slice := none, flows := [], spillCursor := 0, spillq := [], spillLive := 0, spillSaid := false, recompSaid := false, arena := [] }
  ((s.pruneStale.countCtx i 9 1).countBell fun t => (t.1 + 1, t.2.1, t.2.2.1, t.2.2.2)).endSubmit i 0 step

/-- The overrun of a context's slice (R37, R38), under a policy of TEARDOWN or not. -/
def State.overrun (s : State) (i : Slot) (teardown : Bool) : State :=
  let c := s.ctx i
  let ret := match c.slice with | some l => l.retired | none => 0
  let s := s.report { code := 0x2001, slot := i.val, origin := oCtl, detail := Config.detailPack 0x2001 [c.step.toNat, ret] }
  let s := ((s.count 0x1A0B 1).countCtx i 10 1).countBell fun t => (t.1, t.2.1 + 1, t.2.2.1, t.2.2.2)
  let n := (match c.desc with | some d => d.overruns | none => 0) + 1
  if teardown || n ≥ c.policy.rerunLimit then s.teardown i 0x2002 0 oCtl
  else
    let s := s.killSlice i
    s.modCtx i fun c => { c.undirty with
      desc := c.desc.map fun d => { d with rerun := true, overruns := n }
      outcome := some (1, 0x2001) }

/-- The other members of a context's group. -/
def State.members (s : State) (i : Slot) : List Nat :=
  ((s.ctx i).group.memberPairs.map (·.1)).filter (· != s.mgmt.chip)

/-- The deciding chip's decision for a step goes to every member (R44). -/
def State.sendDecision (s : State) (i : Slot) (ok : Bool) : State :=
  let c := s.ctx i
  (s.members i).foldl (fun s m => s.sendCtl 0 m (voteSlot 7 m s.mgmt.chip c.id c.step (!ok) (b2n c.policy.teardown))) s

/-- The deciding chip's decision on a linked slice at its Bell (R44): sent to every member, and applied. -/
def State.groupDecide (s : State) (i : Slot) : State :=
  let c := s.ctx i
  let ok := match c.slice with | some l => l.complete && (s.members i).all fun m => c.votes.contains m | none => false
  let s := s.sendDecision i ok
  if ok then s.commit i else s.overrun i c.policy.teardown

/-- The deciding chip has no slice in service at its Bell though another member of its group may have one: it decides ABORT
then too, at every Bell, and the votes that have come for the step are void (R44; DEDUCED, log entry 75). -/
def State.noSlice (s : State) (i : Slot) : State :=
  if (s.ctx i).resident && (s.ctx i).decides s.mgmt.chip then (s.sendDecision i false).modCtx i fun c => { c with votes := [] } else s

/-- What the Bell does to the slice in service of a context: commit, overrun, decide, or hold for the decision. -/
def State.bellSlice (s : State) (i : Slot) : State :=
  let c := s.ctx i
  match c.slice with
  | none => s.noSlice i
  | some l =>
    if c.held.isSome then s
    else if c.group.linked then
      if c.decides s.mgmt.chip then s.groupDecide i else s.modCtx i fun c => { c with held := some s.bel.count.toNat }
    else if l.complete then s.commit i
    else s.overrun i c.policy.teardown

/-! ### Tallies (R111, R112) -/

/-- A Tally (Table 5.7), and its remainders. -/
def State.tallyBytes (s : State) (i : Slot) (t : TallyRec) : List Byte × Carry :=
  let a := t.act
  let rd := t.carry.memrd + 64 * a.memrd
  let wr := t.carry.memwr + 64 * a.memwr
  let tx := t.carry.lnkTx + 64 * a.lnkTx
  let rx := t.carry.lnkRx + 64 * a.lnkRx
  let counts := [a.eng8, a.eng16, a.vec, a.tbl, a.scr, a.memrd, a.memwr, a.lnkTx + a.lnkRx]
  let pj := t.carry.pj + natSum ((counts.zip s.cfg.energy).map fun p => p.1 * p.2)
  (leBytes 4 t.id.toNat ++ leBytes 4 (t.outcome.1 <<< 28 ||| i.val <<< 16 ||| t.outcome.2.toNat) ++ leBytes 8 t.step.toNat ++
    leBytes 8 s.bel.count.toNat ++ leBytes 8 (a.eng8 + a.eng16) ++ leBytes 4 (rd / 256) ++ leBytes 4 (wr / 256) ++
    leBytes 4 (tx / 256) ++ leBytes 4 (rx / 256) ++ leBytes 4 (pj / 1000000) ++ leBytes 4 a.retired ++ leBytes 4 a.skipped ++
    leBytes 4 t.seq.toNat,
   { memrd := rd % 256, memwr := wr % 256, lnkTx := tx % 256, lnkRx := rx % 256, pj := pj % 1000000 })

/-- The outcome and event of a context's Tally, none where it earns none. OUTCOME of a slice that is held for its decision
is stated nowhere: a free value (log entry 46). -/
def State.tallyOutcome (s : State) (i : Slot) : Option (Nat × W16) × State :=
  let c := s.ctx i
  match c.outcome with
  | some o => (some o, s)
  | none =>
    if c.hadSlice then
      let (n, s) := s.takeFree
      (some ((Config.freeValue n).toNat % 16, 0), s)
    else (if c.resident && c.policy.tallyIdle then some (5, 0) else none, s)

/-- A Tally is queued, and its energy counted (R363). -/
def State.putTally (s : State) (i : Slot) (t : List Byte) : State := (s.queueTally t).countCtx i 20 (leNat ((t.drop 48).take 4))

/-- The Tallies of the contexts that were closed in the period; the counters of a slot opened since are the new context's. -/
def State.closedTallies (s : State) (i : Slot) : State :=
  let s := (s.ctx i).closed.foldl (fun s x =>
    let t := (s.tallyBytes i x).1
    if (s.ctx i).state = .free then s.putTally i t else s.queueTally t) s
  s.modCtx i fun c => { c with closed := [] }

/-- The Tallies of a slot at a Bell, for the contexts that earn one; the counts start anew. -/
def State.tally (s : State) (i : Slot) : State :=
  let s := s.closedTallies i
  let (o, s) := s.tallyOutcome i
  let s := match o with
    | none => s
    | some o =>
      let t := s.tallyBytes i ((s.ctx i).tallyRec o)
      (s.putTally i t.1).modCtx i fun c => { c with tallySeq := c.tallySeq + 1, carry := t.2 }
  s.modCtx i fun c => { c with act := {}, outcome := none, hadSlice := c.slice.isSome }

/-! ### What takes effect at a Bell -/

/-- No context of a pitch has a slice in service. -/
def State.pitchQuiet (s : State) (p : Pitch) : Bool := (s.residents p).all fun i => (s.ctx i).slice.isNone

/-- A regulator's register comes into force, and its bucket is full (R100, R101). -/
def Bucket.load (b : Bucket) : Bucket := if b.wrote then { b with live := b.reg, count := fld b.reg 31 16 * 256, wrote := false } else b

/-- The registers of a pitch at a Bell (R90, R101). -/
def State.loadPitch (s : State) (p : Pitch) : State :=
  let s := s.modPit p fun x => { x with evict := x.evictReg, admitted := [] }
  if !s.pitchQuiet p then s else
  let s := s.modPit p fun x => { x with rd := x.rd.load, wr := x.wr.load, tx := x.tx.load, mode := x.modeReg }
  (s.pitchCores p).foldl (fun s c => s.modSeq c fun q =>
    if q.inst.isNone && (q.mode == .halt || q.mode == .take || q.mode == .atTake) then { q with mode := if bit (s.pit p).mode 1 then .take else .halt } else q) s

/-- A ring set-up comes into force: one that changes a base or a size resets the indices, and what was read from the earlier
ring moves the new one no more (R306). -/
def Ctx.loadSetup (c : Ctx) (r : RingSetup) : Ctx :=
  let moved := r.sqBase ≠ c.setup.sqBase || r.cqBase ≠ c.setup.cqBase || r.sqLog ≠ c.setup.sqLog || r.cqLog ≠ c.setup.cqLog
  { c with setup := r, setupNext := none, ring := if moved then {} else c.ring, ringSetups := c.ringSetups + b2n moved }

/-- What waits in a context until it has no slice in service (R90, R96, R306). -/
def Ctx.loadNext (c : Ctx) : Ctx :=
  if c.slice.isSome then c else
  let c : Ctx := { c with
    policy := c.policyNext.getD c.policy, policyNext := none, group := c.groupNext.getD c.group, groupNext := none
    quota := c.quotaReg, backing := c.backingNext.getD c.backing, backingNext := none }
  match c.setupNext with
  | some r => c.loadSetup r
  | none => c

/-- The registers whose writes take effect at the next Bell (Table 19.4). -/
def State.loadRegs (s : State) : State :=
  { s with
    bel := { s.bel with reserve := s.bel.reserveReg, guard := s.bel.guardReg }
    mkt := { s.mkt with swapBase := s.mkt.swapBaseReg, swapCount := s.mkt.swapCountReg }
    cfg := { s.cfg with stash := s.cfg.stashReg }
    errs := { s.errs with
      cewin := s.errs.cewinReg, thrScr := s.errs.thrScrReg, thrMkt := s.errs.thrMktReg, thrLane := s.errs.thrLaneReg, aging := s.errs.agingReg } }

/-! ### Markers that a master sends (R42, R282) -/

/-- A BELL or BARRIER slot (Table 12.6). -/
def markerSlot (ctype hops : Nat) (stop : Bool) (master period : Nat) (bell : W64) (ts : Nat) (cum : Int) : BitVec 256 :=
  BitVec.ofNat 256 (ctype ||| hops <<< 8 ||| b2n stop <<< 12 ||| master <<< 16 ||| period <<< 32 ||| bell.toNat <<< 64 |||
    (ts % 2 ^ 64) <<< 128 ||| wrapN 64 cum <<< 192)

/-- A timed slot joins every port of LNK.CHIP.BELL_FWD but one. -/
def State.sendMarker (s : State) (slot : BitVec 256) (but : Option LPort) : State :=
  (allPorts.filter fun p => s.mgmt.bellFwd.getLsbD p.val && some p != but).foldl (fun s p =>
    s.modPort p fun x => { x with timed := x.timed ++ [slot] }) s

/-- The master's marker for the Bell after this one. -/
def State.announce (s : State) : State :=
  if !s.bel.master then s else
  let slot := markerSlot 1 1 s.bel.stopAt s.mgmt.chip s.bel.periodReg (s.bel.count + 1) (s.bel.last + s.bel.period) 0
  ({ s with bel := { s.bel with periodNext := s.bel.periodReg, stopSent := s.bel.stopAt } } : State).sendMarker slot none

/-! ### The Bell -/

/-- The Bell timer: BEL.COUNT, the length of the period that starts, and whether this Bell stops the block (R18, R20, R42,
R43, R46, R47). On a linked chip they come from the marker in use, or stay as last announced; once it has lost LOCKED it runs
on its own timer and takes its own STOP_AT_BELL. -/
def State.bellTimer (s : State) : State × Bool :=
  let b := s.bel
  let zero := b.barrier.isSome
  let follows := b.linked && (b.locked || zero)
  let period :=
    if b.linked then (match b.marker with | some m => if follows then m.2.1 else b.period | none => b.period)
    else if b.master then b.periodNext else b.periodReg
  let stop :=
    if follows then (match b.marker with | some m => m.2.2 | none => false)
    else if b.master then b.stopSent else b.stopAt
  ({ s with bel := { b with
      count := if zero then (if b.stopped then b.count else 0) else b.count + 1
      period := period, last := s.clk.time, marker := none, missSaid := false
      missed := if b.marker.isSome then 0 else b.missed, barrier := none, awaiting := none, running := true, stopped := false
      locked := b.locked || (zero && (b.linked || b.master)), stopSent := false } }, stop)

/-- The block may sleep (R294): EN and SLEEP_EN are 1. -/
def HostSt.maySleep (h : HostSt) : Bool := h.en && h.sleepEn

/-- The poll of a Bell, the shadow status, and going to sleep (R293 to R295); IDLE_BELLS of 0 counts as 1. A Bell that falls
while a sleep is being entered writes SLEEPING again, unless a ring has advanced or the block may sleep no more. -/
def State.bellPoll (s : State) : State :=
  if s.hst.sleeping then s else
  let before := s.hst.idle
  let seen := s.hst.sleepArm && s.hst.advanced
  let s := s.poll
  let s : State := { s with hst := { s.hst with idle := if s.hst.advanced then 0 else s.hst.idle + 1 } }
  let quiet := s.hst.maySleep && !allSlots.any fun i => (s.ctx i).slice.isSome
  let arm := quiet && if s.hst.sleepArm then !seen && !s.hst.advanced else decide (max 1 s.hst.idleBells ≤ before)
  ({ s with hst := { s.hst with sleepArm := arm } } : State).writeShadow arm

/-- Reports that a Bell makes of its period: MSG_STALE (R254), LINK_REPLAY (R273), TRACE_LOSS (R368), MEM_CE (R334). -/
def State.bellReports (s : State) : State :=
  let s := allSlots.foldl (fun s i =>
    let n := (s.ctx i).nacks
    if n = 0 then s else (s.modCtx i fun c => { c with nacks := 0 }).noteCtx 0x6003 i n) s
  let s := allPorts.foldl (fun s p =>
    let n := (s.port p).replays
    if n = 0 then s else (s.modPort p fun x => { x with replays := 0 }).report { code := 0x7001, origin := oLink p, detail := BitVec.ofNat 128 n }) s
  let n := s.trc.lostBell
  let s := if n = 0 then s else ({ s with trc := { s.trc with lostBell := 0 } } : State).note 0xC003 n
  s.reportCe

/-- The images whose install is due at this Bell, ascending: no slice in service, whether or not a descriptor is due for re-run,
and no eviction, which discards the image (R65). -/
def State.dueInstalls (s : State) : List Slot :=
  allSlots.filter fun i =>
    let c := s.ctx i
    c.pending.isSome && !c.installWait && c.slice.isNone && c.evict.isNone &&
    (c.state == .opened || c.state == .loaded)

/-- DATA of a control-domain event of Table 16.5: BEL.COUNT and the array clock in MHz. -/
def State.ctlData (s : State) : W64 := BitVec.ofNat 64 (s.bel.count.toNat % 2 ^ 32 ||| (100 * s.pwr.aclk) <<< 32)

/-- The first rows of a Bell, at B and B+1, and its kills and merges. -/
def State.bellRows (s : State) : State :=
  let s : State := { ((s.hang oCtl 0 0x70 0x7F s.ctlData).hang oCtl 0 0x71 0x7F s.ctlData) with bel := { s.bel with open_ := true } }
  let s : State := { s with ctxs := s.ctxs.map fun c => { c with merging := false } }
  let s := allSlots.foldl State.bellSlice s
  let s := allSlots.foldl State.evictMark s
  let s := allSlots.foldl State.tally s
  let s := allSlots.foldl (fun s i => s.modCtx i fun c =>
    let c' := (if c.held.isSome then c else c.undirty).loadNext
    { c' with barred := false, awaits := c.follows s.mgmt.chip && c'.follows s.mgmt.chip }) s
  let s := allPitches.foldl State.loadPitch s.loadRegs
  let s : State := { s with cores := s.cores.map fun k => { k with regions := k.regions.map fun r =>
    if (s.ctx r.slot).held.isSome then r else { r with count := 0, clipped := false, retired := false } } }
  s.settle

/-- The later rows of a Bell: polls, reports, evictions, swap-ins, spares, banks, and the start of admission, which a pitch
has that holds a context or lets the Market swap one in (R34, R106). -/
def State.bellRest (s : State) (stop : Bool) : State :=
  let s := s.tallyLoss.bellPoll.bellIrqs.bellReports
  let s := allSlots.foldl State.evictStart s
  let s := s.swapScanBell
  let s : State := { s with mkt := { s.mkt with swapNow := s.mkt.swapNow ++ s.mkt.swapPlan, swapPlan := [] } }
  let s := s.substitute
  let s := s.freeClosed
  let s : State := { s with bel := { s.bel with installs := s.dueInstalls } }
  let s := allCores.foldl State.bankPower s
  let s := s.count 0x1A4B 1
  let s := if s.trc.src = 3 && s.trc.val = s.bel.count.extractLsb' 0 32 then s.triggerTrace else s
  let s := allPitches.foldl (fun s p => s.modPit p fun x => { x with admitDue := !stop && (!(s.residents p).isEmpty || bit x.evict 8) }) s
  let s := if allPitches.any fun p => (s.pit p).admitDue then s else s.bellRecord
  let s := if !stop then s.announce else
    ({ s with bel := { s.bel with stopped := true, running := false, stopAt := false } } : State).note 0xC002 0
  s.retarget

/-- A Bell at the present time. -/
def State.bellNow (s : State) : State :=
  let s := s.bellRecord
  let r := s.bellTimer
  r.1.bellRows.bellRest r.2

/-- A Bell is due: the timer runs, or a start barrier has named Bell 0. A stop-now that is requested is taken before it, and
a stop at this Bell then stays pending until the first Bell after RESUME_NOW (R354). -/
def State.bellDue (s : State) : Bool :=
  s.runs && !s.dbg.stopReq && s.bel.en && s.dbg.holdFrom.isNone && (s.bel.running || s.bel.barrier.isSome)

/-- BELL: at the time that the timer, the marker or the barrier names. -/
def State.bell (s : State) : State :=
  if !s.bellDue then s else
  (s.advanceTo (match s.bel.barrier with | some b => b.2 | none => s.nextBell)).bellNow

/-- SLEEP_CONFIRM (R294): the write of SLEEPING is acknowledged; every armed record is polled once more. Where EN or SLEEP_EN
has become 0 since, the block stays awake. -/
def State.sleepConfirm (s : State) : State :=
  if !s.runs || !s.hst.sleepArm || s.writing (fun o => match o with | .shadow true => true | _ => false) then s else
  let before := s.hst.advanced
  let s := s.poll
  let s : State := { s with hst := { s.hst with sleepArm := false } }
  if before || s.hst.advanced || !s.hst.maySleep then s.writeShadow false
  else { s with hst := { s.hst with sleeping := true } }

def execBell (s : State) : Host.Outcome State Fault Refusal := s.run fun s => s.bell
def execSleepConfirm (s : State) : Host.Outcome State Fault Refusal := s.run fun s => s.sleepConfirm

end Sys2Proof.Machine
end

