-- ==== Sys2Proof/Machine/RunEngine.lean ====
section
/-! DEFINITION. Sys2Proof/Machine/RunEngine.lean: what LDW, MMUL and PSOUT do when they run (R160, R225). -/

namespace Sys2Proof.Machine

/-- LDW: the tile's bytes fill the weight buffer; a block-bitmap window learns its extent from its bitmap words, and what it
reads past them is counted, and released, here (R110, R128). -/
def State.runLdw (s : State) (c : PCore) (x : Inst) (d : Cmd) : Ran :=
  let fb := mFmtB d.m0
  let sp := mSparse d.m0
  let ext := if sp = 2 then windowExtent fb (mBsB d.m0) (s.rdReg c x d d.aA 32) else tileExtent fb sp (mBsB d.m0)
  if sp = 2 && ext > arLen d.aA * 64 then (s, some 0x4033) else
  match (s.core c).translate x.slot (arHandle d.aA) (arOff d.aA * 64) (roundUp ext 64) false with
  | .error code => (s, some code)
  | .ok e =>
    let sl := slotsOf e [(arOff d.aA * 64, ext)]
    if !(s.core c).readOk c e.mem sl then (s, some 0x4001) else
    let bytes := s.readH c x.slot e (arOff d.aA * 64) (roundUp ext 64) (mView d.m0)
    if sp = 1 && (sparseTile fb (mBsB d.m0) bytes).isNone then (s, some 0x4012) else
    let t : LdwP := { fmtB := fb, bsB := mBsB d.m0, sparse := sp, pass := fld d.m1 1 0, aA := d.aA, tile := bytes }
    let s := s.modCore c fun k => { k with tile := some t }
    if sp ≠ 2 then (s, none) else
    let s := s.countAcc x.slot e.mem false ((s.ctx x.slot).copyBase e false + arOff d.aA * 64 + 64) (roundUp ext 64 - 64)
    (if mRel d.m0 then s.dueReleases c e.mem sl else s, none)

/-- The tile in the array. -/
def Core.weightTile (k : Core) : Tile :=
  match k.tile with
  | some t => (loadTile t.fmtB t.sparse t.bsB t.pass t.tile).getD {}
  | none => {}

/-- The rows of A of an MMUL (R225, R168), with their scales. -/
def mmulRows (m0 m1 : W64) (bytes : List Byte) : List Vec :=
  let kt := tileK (mFmtB m0) (mSparse m0)
  let w := fmtBits (mFmtA m0)
  let m := mM m0
  let st := mAs m1
  let code (r k : Nat) : Nat :=
    let (i, j, n) := if mTa m0 then (k, r, m) else (r, k, kt)
    if st = 0 then elemAt w bytes (i * n + j) else elemAt w (bytes.drop (i * st)) j
  let arr := bytes.drop (roundUp (packedLen w (m * kt)) 64)
  (List.range m).map fun r => {
    els := (List.range kt).map fun k => decodeNum (mFmtA m0) (code r k)
    scales := if mBsA m0 then ((arr.drop (kt / 32 * r)).take (kt / 32)).map (·.toNat) else [] }

/-- The 128 entries of a row of partial sums. -/
def entRow (bytes : List Byte) (r : Nat) : List PEnt := (List.range 128).map fun j => PEnt.ofBytes (bytes.drop (2048 * r + 16 * j))

/-- The rows of an MMUL combined into their entries, in order; a row after ACC_RANGE is not reached. -/
def mmulRun (m0 : W64) (t : Tile) (old : List Byte) (frozen : Nat → Bool) : List (Vec × Nat) → List (Nat × List PEnt) × Bool → List (Nat × List PEnt) × Bool × Bool
  | [], (l, inv) => (l, inv, false)
  | (v, r) :: rest, (l, inv) =>
    if frozen r then mmulRun m0 t old frozen rest (l, inv) else
    let p := if mAcc m0 then entRow old r else List.replicate 128 {}
    if tilePlain t.cols && v.isZero then mmulRun m0 t old frozen rest (l ++ [(r, p)], inv) else
    let o := mmulRow (mFmtA m0) (mFmtB m0) (mBsA m0 || mBsB m0) t.kt v (t.cols.zip p) {}
    if o.bad then (l ++ [(r, o.ents)], inv || o.inv, true) else mmulRun m0 t old frozen rest (l ++ [(r, o.ents)], inv || o.inv)

/-- The write-out of rows of values to a destination (R152 to R155, R225): the pieces, and what was written by row. -/
def State.outPieces (s : State) (x : Inst) (d : Cmd) (reg : W64) (rows : List (List Num)) : List (Nat × List Byte) × List Wrote :=
  let f := mOut d.m0
  let w := fmtBits f
  let ds := mDs d.m1
  let ws := rows.zipIdx.map fun row =>
    writeRow f (mRound d.m0) (mSat d.m0) (mBsOut d.m0) (row.1.zipIdx.map fun v =>
      (v.1, s.srDraw x d reg w (if ds = 0 then (row.2 * 128 + v.2) * w else row.2 * ds * 8 + v.2 * w)))
  let els := if ds = 0 then [(0, padUnits (pack w (ws.flatMap (·.codes))))]
             else ws.zipIdx.map fun y => (y.2 * ds, padUnits (pack w y.1.codes))
  let after := if ds = 0 then roundUp (packedLen w (rows.length * 128)) 64 else (rows.length - 1) * ds + roundUp (packedLen w 128) 64
  let sc := if mBsOut d.m0 then [(after, padUnits (ws.flatMap fun y => y.scales.map (BitVec.ofNat 8)))] else []
  (els ++ sc, ws)

/-- Write-out of entry rows, with its status and statistics. -/
def State.writeOutRows (s : State) (c : PCore) (x : Inst) (d : Cmd) (reg : W64) (rows : List (List PEnt)) : State :=
  let (ps, ws) := s.outPieces x d reg (rows.map fun r => r.map fun p => p.num.scale (mOshift d.m0))
  let s := s.putReg c x d reg ps
  let s := s.setArith c false (ws.any (·.ovf)) (ws.any (·.nanLost))
  s.addStats c x d (ws.map (·.vals))

/-- MMUL (R146 to R151, R159): 6 + Z array cycles. Where the rows of an MMUL or PSOUT before it are still to go by, its 6 fixed cycles
fall into theirs, and are BUSY once (R360; DESIGN CHOICE, log entry 56). -/
def State.runMmul (s : State) (c : PCore) (x : Inst) (d : Cmd) : Ran :=
  let frozen := s.frozenRow c x d
  let t := (s.core c).weightTile
  let rows := mmulRows d.m0 d.m1 (s.rdReg c x d d.aA (mmulA d.m0 d.m1).1)
  let old := s.rdReg c x d d.aD (mM d.m0 * 2048)
  let (out, inv, bad) := mmulRun d.m0 t old frozen rows.zipIdx ([], false)
  let live := (rows.zipIdx.filter fun v => !frozen v.2).map (·.1)
  let z := scanCycles (tilePlain t.cols) (rowCycles (mFmtA d.m0) (mFmtB d.m0)) live 0
  let s := s.countEngine c x.slot (mFmtA d.m0 ≥ 6) (6 - min 6 (s.engineAhead c) + z)
  let s := s.putReg c x d d.aD (out.map fun r => (r.1 * 2048, r.2.flatMap PEnt.bytes))
  let s := s.setArith c inv false false
  if bad then (s, some 0x4010)
  else if mOut d.m0 = 0xF then (s, none)
  else (s.writeOutRows c x d d.aB (out.map (·.2)), none)

/-- PSOUT: 12 array cycles and one for each row; its class follows OUT (log entry 17). -/
def State.runPsout (s : State) (c : PCore) (x : Inst) (d : Cmd) : Ran :=
  let old := s.rdReg c x d d.aA (mM d.m0 * 2048)
  let s := s.countEngine c x.slot (mOut d.m0 = 6 || mOut d.m0 = 7) (12 + mM d.m0)
  (s.writeOutRows c x d d.aD ((List.range (mM d.m0)).map (entRow old)), none)

end Sys2Proof.Machine
end

