-- ==== Sys2Proof/Machine/RunMove.lean ====
section
/-! DEFINITION. Sys2Proof/Machine/RunMove.lean: what MOVE and TWLD do when they run (R164 to R167, R230). -/

namespace Sys2Proof.Machine

/-- Units moved to another core, or off the block, are counted at both ends (Table 16.8). -/
def State.countMove (s : State) (src dst : PCore) (bytes : Nat) : State :=
  if src = dst then s else (s.countCore src 17 (ceilDiv bytes 64)).countCore dst 18 (ceilDiv bytes 64)

/-- MOVE: aA.LEN × 64 bytes (R230). -/
def State.runMove (s : State) (c : PCore) (x : Inst) (d : Cmd) : Ran :=
  let n := arLen d.aA * 64
  (s.putReg c x d d.aD [(0, s.rdReg c x d d.aA n)], none)

/-! ### TWLD -/

/-- A formed weight matrix: its codes in row-major order, and its scale bytes by (k block, n block) of 32 × 32. -/
structure Formed where
  k : Nat
  n : Nat
  codes : List Nat := []
  scales : List Nat := []
  ovf : Bool := false
  nanLost : Bool := false
deriving DecidableEq, Repr

/-- The code of element (i, j). -/
def Formed.code (m : Formed) (i j : Nat) : Nat := if i < m.k && j < m.n then (m.codes[i * m.n + j]?).getD 0 else 0
/-- The scale byte of element (i, j). -/
def Formed.scale (m : Formed) (i j : Nat) : Nat := (m.scales[i / 32 * ceilDiv m.n 32 + j / 32]?).getD 127

/-- The scale bytes of square blocks (R165). -/
def squareScales (f k n : Nat) (v : Nat → Nat → Num) : List Nat :=
  (List.range (ceilDiv k 32)).flatMap fun a => (List.range (ceilDiv n 32)).map fun b =>
    blockScale f ((List.range (min 32 (k - 32 * a))).flatMap fun i => (List.range (min 32 (n - 32 * b))).map fun j => v (32 * a + i) (32 * b + j))

/-- The master's elements converted once (R164, R165). -/
def formWeights (f mode k n : Nat) (bs : Bool) (v : Nat → Nat → Num) (draw : Nat → Nat) : Formed :=
  let m : Formed := { k := k, n := n, scales := if bs then squareScales f k n v else [] }
  let ws := (List.range (k * n)).map fun p =>
    let x := m.scale (p / n) (p % n)
    if bs && x == 255 then ({} : Written) else writeOut f mode true (draw p) ((v (p / n) (p % n)).scale (if bs then 127 - (x : Int) else 0))
  { m with codes := ws.map (·.code), ovf := ws.any (·.ovf), nanLost := ws.any (·.nanLost) }

/-- The matrix transposed. -/
def Formed.transpose (m : Formed) : Formed :=
  let a := ceilDiv m.k 32
  let b := ceilDiv m.n 32
  { k := m.n, n := m.k
    codes := (List.range (m.n * m.k)).map fun p => m.code (p % m.k) (p / m.k)
    scales := if m.scales.isEmpty then [] else (List.range (b * a)).map fun p => (m.scales[p % a * b + p / a]?).getD 127 }

/-- The value of an element, its scale included. -/
def Formed.value (m : Formed) (f i j : Nat) : Num :=
  if m.scales.isEmpty then decodeNum f (m.code i j) else
  let x := m.scale i j
  if x = 255 then .nan else (decodeNum f (m.code i j)).scale ((x : Int) - 127)

/-- An element past the edge of the matrix is zero; inside it, its converted value is, scale included (R166): under a scale of
0xFF every value is a NaN. -/
def Formed.zeroAt (m : Formed) (f i j : Nat) : Bool := !(i < m.k && j < m.n) || (m.value f i j).isZero

/-- Positions that a 2:4 group may store (R157): i0 < i1. -/
def pairs24 : List (Nat × Nat) := [(0, 1), (0, 2), (0, 3), (1, 2), (1, 3), (2, 3)]

/-- The stored positions of a group whose non-zero positions are nz: none where there are more than two; where the spec
leaves positions open, the free value picks one of those it allows. It is a function of the group alone, so that the same
inputs give the same bytes in every run (R313, R316). -/
def pick24 (nz : List Nat) (free : Nat) : Option (Nat × Nat) :=
  let ok := pairs24.filter fun p => nz.all fun i => i == p.1 || i == p.2
  ok[free % max ok.length 1]?

/-- The W copy under 2:4 encoding, groups along k; none is SPARSE_LOAD (R166). -/
def Formed.sparse24 (m : Formed) (f : Nat) : Option (List Byte) :=
  let g := ceilDiv m.k 4
  let nz (j i : Nat) : List Nat := (List.range 4).filter fun p => !m.zeroAt f (4 * i + p) j
  let picks := (List.range m.n).map fun j => (List.range g).map fun i => pick24 (nz j i) (Config.pos24 j i (nz j i))
  if picks.any fun l => l.any Option.isNone then none else
  let at' (j i : Nat) : Nat × Nat := (((picks[j]?).getD [])[i]?).join.getD (0, 1)
  let vals := (List.range (2 * g)).flatMap fun p => (List.range m.n).map fun j =>
    let q := at' j (p / 2)
    m.code (4 * (p / 2) + if p % 2 = 0 then q.1 else q.2) j
  let meta' := (List.range m.n).flatMap fun j => (List.range g).map fun i => (at' j i).1 + 4 * (at' j i).2
  some (pack (fmtBits f) vals ++ pack 4 meta')

/-- One window of the block-bitmap encoding from (k0, n0): a block is stored where one of its values is not zero (R158, R166). -/
def Formed.window (m : Formed) (f k0 n0 : Nat) : List Byte :=
  let blk (g b : Nat) : List Nat := (List.range 256).map fun p => m.code (k0 + 16 * b + p / 16) (n0 + 16 * g + p % 16)
  let live (g b : Nat) : Bool := (List.range 256).any fun p => !m.zeroAt f (k0 + 16 * b + p / 16) (n0 + 16 * g + p % 16)
  let word (g : Nat) : Nat := natSum ((List.range 32).map fun b => if live g b then 2 ^ b else 0)
  (List.range 8).flatMap (fun g => leBytes 4 (word g)) ++
  (List.range 8).flatMap fun g => (List.range 32).flatMap fun b => if live g b then pack (fmtBits f) (blk g b) else []

/-- The block-bitmap encoding of a matrix: its windows by k and then by n, each padded to whole units. -/
def Formed.bitmap (m : Formed) (f : Nat) : List Byte :=
  (List.range (ceilDiv m.k 512)).flatMap fun a => (List.range (ceilDiv m.n 128)).flatMap fun b => padUnits (m.window f (512 * a) (128 * b))

/-- The scale array of a copy: block b of column n at ⌈K ÷ 32⌉ × n + b (R144, R165). -/
def Formed.scaleBytes (m : Formed) : List Byte :=
  (List.range m.n).flatMap fun j => (List.range (ceilDiv m.k 32)).map fun b => BitVec.ofNat 8 (m.scale (32 * b) j)

/-- A copy with its scales from the next 64-byte boundary (R222). -/
def Formed.withScale (m : Formed) (vals : List Byte) : List Byte := if m.scales.isEmpty then vals else padUnits vals ++ m.scaleBytes

/-- Two values are the same number, or both NaN. -/
def sameNum (a b : Num) : Bool := if a.isNan || b.isNan then a.isNan && b.isNan else !a.lt b && !b.lt a

/-- The exact widening of every value to BF16, row-major; none is WIDEN_RANGE (R167). -/
def Formed.widen (m : Formed) (f : Nat) : Option (List Nat) :=
  let vs := (List.range (m.k * m.n)).map fun p => m.value f (p / m.n) (p % m.n)
  let cs := vs.map fun v => (writeOut 6 0 false 0 v).code
  if (vs.zip cs).all fun p => sameNum p.1 (decodeNum 6 p.2) then some cs else none

/-- The destination of a copy holds its bytes: SEQ_OPERAND, then the faults of translation (R126, R222). -/
def State.copyFault (s : State) (c : PCore) (x : Inst) (reg : W64) (n : Nat) : Option W16 :=
  if roundUp n 64 > arLen reg * 64 then some 0x4033 else
  match (s.core c).translate x.slot (arHandle reg) (arOff reg * 64) (roundUp n 64) true with
  | .error code => some code
  | .ok _ => none

/-- The W copy of a formed matrix; none is SPARSE_LOAD (R166). -/
def Formed.wCopy (m : Formed) (f sp : Nat) : Option (List Byte) :=
  (match sp with
    | 1 => m.sparse24 f
    | 2 => some (m.bitmap f)
    | _ => some (pack (fmtBits f) m.codes)).map m.withScale

/-- The Wᵀ copy of a transposed matrix in the weight format or widened; none is WIDEN_RANGE (R166, R167). -/
def Formed.wtCopy (t : Formed) (f sp out : Nat) : Option (List Byte) :=
  if out = f then some (t.withScale (if sp = 2 then t.bitmap f else pack (fmtBits f) t.codes))
  else (t.widen f).map fun cs =>
    let b : Formed := { k := t.k, n := t.n, codes := cs }
    if sp = 2 then b.bitmap 6 else pack 16 cs

/-- TWLD: the W copy, and from the same codes the Wᵀ copy (R164 to R167). Both are formed, and their faults found, before
anything is written, so that a faulting TWLD has no effect (R126). -/
def State.runTwld (s : State) (c : PCore) (x : Inst) (d : Cmd) : Ran :=
  let f := mFmtB d.m0
  let bs := mBsB d.m0
  let sp := mSparse d.m0
  let n := mN d.m1
  let k := fld d.m1 31 0
  let fm := mFmtA d.m0
  let src := s.rdReg c x d d.aA (roundUp (packedLen (fmtBits fm) (k * n)) 64)
  let tid := (s.ctx x.slot).tidOf (arHandle d.aD)
  let draw (p : Nat) : Nat := if mRound d.m0 = 4 then s.drawEl x d tid p else 0
  let m := formWeights f (mRound d.m0) k n bs (fun i j => decodeNum fm (elemAt (fmtBits fm) src (i * n + j))) draw
  let t := m.transpose
  match m.wCopy f sp, t.wtCopy f sp (mOut d.m0) with
  | none, _ => (s, some 0x4029)
  | some w, wt =>
    match s.copyFault c x d.aD w.length, wt with
    | some code, _ => (s, some code)
    | none, none => (s, some 0x4028)
    | none, some b =>
      match s.copyFault c x d.aB b.length with
      | some code => (s, some code)
      | none => (((s.setArith c false m.ovf m.nanLost).putReg c x d d.aD [(0, padUnits w)]).putReg c x d d.aB [(0, padUnits b)], none)

end Sys2Proof.Machine
end

