-- ==== Sys2Proof/Machine/RunVector.lean ====
section
/-! DEFINITION. Sys2Proof/Machine/RunVector.lean: what VOP, VRED, VRAND, TLOAD and TEVAL do when they run (R226 to R229,
R178 to R180). -/

namespace Sys2Proof.Machine

/-- n elements of a format read through an address register, as binary32. -/
def State.vecIn (s : State) (c : PCore) (x : Inst) (d : Cmd) (reg : W64) (f n : Nat) : List Num :=
  (unpack (fmtBits f) (s.rdReg c x d reg (roundUp (packedLen (fmtBits f) n) 64)) n).map (toF32 f)

/-- Bits packed eight to a byte, element 8j in bit 0 of byte j. -/
def packBits (bs : List Bool) : List Byte := pack 1 (bs.map b2n)

/-- n bits of a bit array. -/
def State.bitsIn (s : State) (c : PCore) (x : Inst) (d : Cmd) (reg : W64) (n : Nat) : List Bool :=
  (unpack 1 (s.rdReg c x d reg (roundUp (ceilDiv n 8) 64)) n).map (· == 1)

/-- Values written to aD under OUT, ROUND and SAT, with the status and the statistics; rowLen is the length of a row. -/
def State.vecOut (s : State) (c : PCore) (x : Inst) (d : Cmd) (vs : List Num) (inv : Bool) (rowLen : Nat) : State :=
  let f := mOut d.m0
  let w := writeVals f (mRound d.m0) (mSat d.m0) (vs.zipIdx.map fun v => (v.1, s.srDraw x d d.aD (fmtBits f) (v.2 * fmtBits f)))
  let s := s.putReg c x d d.aD [(0, padUnits (pack (fmtBits f) w.codes))]
  let s := s.setArith c inv w.ovf w.nanLost
  s.addStats c x d (chunks rowLen w.vals)

/-- VOP (R226). -/
def State.runVop (s : State) (c : PCore) (x : Inst) (d : Cmd) : Ran :=
  let n := mN d.m1
  let a := s.vecIn c x d d.aA (mFmtA d.m0) n
  let sc := f32 (d.m1.extractLsb' 0 32)
  let bm := mMaskg d.m0
  let rl := mRlen d.m0
  let bs := if vopTakesB d.fn && bm ≠ 2 then s.vecIn c x d d.aB (mFmtB d.m0) (if bm = 0 then n else ceilDiv n rl) else []
  let b (i : Nat) : Num := if bm = 2 then sc else (bs[if bm = 0 then i else i / rl]?).getD .zero
  let s := s.countVector c x.slot ((if d.fn = 6 || d.fn = 7 then 4 else 1) * ceilDiv n 128)
  if d.fn = 11 || d.fn = 12 then
    (s.putReg c x d d.aD [(0, padUnits (packBits (a.zipIdx.map fun v => vopBit d.fn v.1 (b v.2))))], none)
  else if d.fn = 13 then
    let sel := s.bitsIn c x d d.aB n
    (s.vecOut c x d ((a.zip sel).map fun v => if v.2 then v.1 else sc) false n, none)
  else
    let row := if bm = 1 then rl else n
    (s.vecOut c x d (a.zipIdx.map fun v => vopNum d.fn v.1 (b v.2) sc) ((a.zipIdx).any fun v => vopInv d.fn v.1 (b v.2) sc) row, none)

/-- VRED (R227). -/
def State.runVred (s : State) (c : PCore) (x : Inst) (d : Cmd) : Ran :=
  let n := mN d.m1
  let rl := mRlen d.m0
  let rows := n / rl
  let a := s.vecIn c x d d.aA (mFmtA d.m0) n
  let b := if d.fn = 1 then s.vecIn c x d d.aB (mFmtB d.m0) n else if d.fn = 2 then s.vecIn c x d d.aB (mFmtB d.m0) rows else []
  let row (r : Nat) : List Num := (a.drop (r * rl)).take rl
  let res := (List.range rows).map fun r => vredRow d.fn (row r) (vredOther d.fn r rl b)
  let inv := (List.range rows).any fun r => vredInv d.fn (row r) (vredOther d.fn r rl b)
  let s := s.countVector c x.slot (rows * ceilDiv rl 128 + 7)
  if d.fn = 4 then
    let s := s.putReg c x d d.aD [(0, padUnits (pack 32 (res.map (·.2))))]
    (s.addStats c x d [res.map fun r => Num.ofInt r.2], none)
  else (s.vecOut c x d (res.map (·.1)) inv rows, none)

/-- VRAND (R228). -/
def State.runVrand (s : State) (c : PCore) (x : Inst) (d : Cmd) : Ran :=
  let n := mN d.m1
  let tid := (s.ctx x.slot).tidOf (arHandle d.aD)
  let word (i : Nat) : Nat := s.drawEl x d tid (arOff d.aD * 16 + i)
  let code (i : Nat) : Nat := if d.fn = 0 then word i else f32Code (.fin false (word i / 256) (-24))
  let codes := (List.range n).map code
  let s := s.countVector c x.slot (ceilDiv n 64)
  let s := s.putReg c x d d.aD [(0, padUnits (pack 32 codes))]
  (s.addStats c x d [codes.map fun k => decodeNum (mOut d.m0) k], none)

/-- TLOAD (R178, R180). -/
def State.runTload (s : State) (c : PCore) (x : Inst) (d : Cmd) : Ran :=
  let bs := (s.rdReg c x d d.aA 24640).take 24608
  let held := match (s.core c).tables.at? d.fn with | some (some t) => t.owner != x.slot | _ => false
  if held then (s, some 0x4026)
  else if tableBad bs then (s, some 0x4027)
  else (s.modCore c fun k => { k with tables := k.tables.putN d.fn (some { owner := x.slot, bytes := bs }) }, none)

/-- TEVAL (R179, R180). -/
def State.runTeval (s : State) (c : PCore) (x : Inst) (d : Cmd) : Ran :=
  let n := mN d.m1
  match (s.core c).tables.at? (d.fn % 16) with
  | some (some t) =>
    if t.owner != x.slot then (s, some 0x4026) else
    let der := d.fn / 16 == 1
    let a := s.vecIn c x d d.aA (mFmtA d.m0) n
    let s := s.countTable c x.slot (ceilDiv n 128 + 8)
    (s.vecOut c x d (a.map (tableEval t.bytes der)) (a.any (tableInv t.bytes der)) n, none)
  | _ => (s, some 0x4026)

end Sys2Proof.Machine
end

