-- ==== Sys2Proof/Machine/Complete.lean ====
section
/-! DEFINITION. Sys2Proof/Machine/Complete.lean: the start and the completion of the commands in the units' queues (R117,
R118, R126, R128), and the ordered release of results that leave a core (R133, R134). -/

namespace Sys2Proof.Machine

/-- The queue of a unit. -/
def unitNum : CmdUnit → Nat
  | .engine => 0 | .vector => 1 | .table => 2 | .move => 3

/-- DATA of a command event of Table 16.5. -/
def cmdData (d : Cmd) (reason : Nat := 0) : W64 :=
  BitVec.ofNat 64 (d.op ||| reason <<< 8 ||| (match d.seq with | some q => q.toNat | none => 0) <<< 32)

/-- The head of a unit's queue replaced. -/
def State.setHead (s : State) (c : PCore) (u : Nat) (d : Cmd) : State :=
  s.modCore c fun k => { k with queues := k.queues.putN u (d :: (k.queue u).tail) }

/-- The head of a unit's queue cannot start for a reason of Table 16.6: its stall begins, which the unit's hang ring notes once
(Table 16.5). -/
def State.stallCmd (s : State) (c : PCore) (u : Nat) (d : Cmd) (reason : Nat) : State :=
  if d.stalled ≠ 0 then s else
  (s.setHead c u { d with stalled := reason }).hang (oCore c) (u + 1) 0x12 d.inst.slot.val (cmdData d reason)

/-- Its stall, if it has one, ends. -/
def State.unstall (s : State) (c : PCore) (u : Nat) (d : Cmd) : State :=
  if d.stalled = 0 then s else s.hang (oCore c) (u + 1) 0x13 d.inst.slot.val (cmdData d d.stalled)

/-- A changed word that lies in what a command reads is met by its reads (R330, R336): corrected, the command goes on; where it is
uncorrectable the command delivers nothing and its context is faulted, after the owner has met its fate. Whether it goes
on, and the state. -/
def State.meetUpset (s : State) (c : PCore) (d : Cmd) (upset : Option Upset) : Bool × State :=
  match upset with
  | none => (true, s)
  | some u =>
    let p := bankWord u.bank.val u.word.toNat
    if !meetsAny [⟨u.core, p.1, p.2, p.2 + 16⟩] d.reads then (true, s) else
    let s := s.readUpset u
    if !upsetFatal u then (true, s)
    else (false, if (s.ctx d.inst.slot).state = .loaded then s.fault c d.inst.slot 0x5002 else s)

/-- The command at the head of a unit's queue starts: translation, presence and fills (R126, R128), the grants of a
message (R248), and the words that its reads find changed (R336). The engine, vector and table units stand still while the
array clock is gated (R377, R380). A command that cannot start yet stalls. -/
def State.commandStart (s : State) (c : PCore) (u : Nat) (upset : Option Upset) : State :=
  match (s.core c).queue u with
  | [] => s
  | d :: _ =>
    if !s.runs || s.frozen d.inst.slot || d.started then s
    else if u ≠ 3 && s.pwr.gated then s.stallCmd c u d 4
    else if s.blocked c u d then s.stallCmd c u d 7
    else
    let x := d.inst
    let l := opnds d (s.frozenRow c x d)
    match s.transFault c x d l with
    | some code => s.fault c x.slot code
    | none =>
      match s.presFault c x d l with
      | some code => s.fault c x.slot code
      | none =>
        let go (s : State) (d : Cmd) : State :=
          (((s.fillOpnds c x d l).setHead c u { d with started := true, stalled := 0 }).unstall c u d).hang (oCore c) (u + 1) 0x10 x.slot.val (cmdData d)
        if d.op = 0x34 || d.op = 0x36 then
          match s.askGrants c x d with
          | none => s.stallCmd c u d 12
          | some (t, gids) =>
            match s.meetUpset c d upset with
            | (false, s) => s
            | (true, _) => ((go t { d with gids := gids }).meetUpset c d upset).2
        else
          match s.meetUpset c d upset with
          | (false, s) => s
          | (true, s) => go s d

/-- A read of the command off the block meets a unit whose write is outstanding (R401). -/
def State.readsBusy (s : State) (d : Cmd) : Bool := d.reads.any fun r => decide (5 ≤ r.mem) && s.unitBusy (r.mem == 6) r.lo (r.hi - r.lo)

/-- A stash command may read its directory entry: no write of the core's earlier ones waits in the release buffer (R118), or is
outstanding in the entry's unit (R401). -/
def State.dirReadable (s : State) (c : PCore) (d : Cmd) : Bool :=
  (s.core c).dirReady && !s.unitBusy false (s.dirAddr c d.inst (d.fn % 4)) 16

/-- Whether a started command can complete (R192, R248, R250, R401). -/
def State.cmdReady (s : State) (c : PCore) (d : Cmd) : Bool :=
  !s.readsBusy d &&
  match d.op with
  | 0x2E => s.dirReadable c d
  | 0x2F => s.dirReadable c d && s.sloadReady d.inst
  | 0x30 => s.dirReadable c d
  | 0x34 => (s.core c).answered d
  | 0x36 => (s.core c).answered d
  | 0x35 => (s.recvPick c d.inst d).isSome
  | _ => true

/-- The read of a stash directory entry through a memory port (R192). -/
def State.countDir (s : State) (c : PCore) (x : Inst) (d : Cmd) : State :=
  (s.readReq false (s.dirAddr c x (d.fn % 4)) 16 (.ctx x.slot)).countRd x.slot (s.dirAddr c x (d.fn % 4)) 16

/-- What a command does. -/
def State.runCmd (s : State) (c : PCore) (d : Cmd) : Ran :=
  let x := d.inst
  match d.op with
  | 0x20 => s.runLdw c x d
  | 0x21 => s.runMmul c x d
  | 0x22 => s.runPsout c x d
  | 0x24 => s.runVop c x d
  | 0x25 => s.runVred c x d
  | 0x26 => s.runVrand c x d
  | 0x28 => s.runTload c x d
  | 0x29 => s.runTeval c x d
  | 0x2C => s.runMove c x d
  | 0x2D => s.runTwld c x d
  | 0x2E => (s.countDir c x d).runStash c x d
  | 0x2F => (s.countDir c x d).runSload c x d
  | 0x30 => (s.countDir c x d).runSquery c x d
  | 0x31 => s.runGacc c x d
  | 0x32 => s.runGread c x d
  | 0x33 => s.runGxenc c x d
  | 0x34 => s.runSend c x d
  | 0x35 => s.runRecv c x d
  | 0x36 => s.runSend c x d
  | 0x37 => s.runWopen c x d
  | 0x38 => s.runWclose c x d
  | _ => (s, none)

/-- The RECV that blocks a sequencer has its message: the sequencer goes on (R250). -/
def State.endRecv (s : State) (c : PCore) (x : Inst) : State :=
  let q := (s.core c).seq
  if q.mode != .recv then s else
  (s.modSeq c fun q => { q with mode := .run }).hang (oCore c) 0 0x08 x.slot.val (blockData q 1)

/-- A started command completes: its effect, or its fault; its releases; its result; and what waited for it. -/
def State.commandComplete (s : State) (c : PCore) (u : Nat) : State :=
  match (s.core c).queue u with
  | [] => s
  | d :: _ =>
    if !s.runs || s.frozen d.inst.slot || !d.started || (u ≠ 3 && s.pwr.gated) || !s.cmdReady c d then s else
    let x := d.inst
    let l := opnds d (s.frozenRow c x d)
    match s.runCmd c d with
    | (s, some code) => s.fault c x.slot code
    | (s, none) =>
      let s := s.endReads c x d l
      let s := s.modCore c fun k => { k with queues := k.queues.putN u (k.queue u).tail }
      let s := if hasResult d.op then s.modSeq c fun q => { q with pend := q.pend.erase d.res } else s
      let s := if d.op = 0x35 then s.endRecv c x else s
      let s := s.hang (oCore c) (u + 1) 0x11 x.slot.val (cmdData d)
      s.wakeWait c

/-- A remote or off-block write leaves (R133): presence at the receiving core (Table 6.6), the fill, and the bytes. -/
def State.releaseWrite (s : State) (c : PCore) (r : RelItem) (dst : PCore) (h : Nat) (parts : List (Nat × List Byte)) (priv : Bool) (readers : Nat) : Ran :=
  match (s.core dst).handle r.slot h with
  | none => (s, some 0x4003)
  | some e =>
    let sl := slotsOf e (parts.map fun p => (p.1, p.2.length))
    let priv := priv || e.mem == 2
    if dst ≠ c && !(s.core dst).writeOk c e.mem sl then (s, some 0x4002) else
    let s := if dst = c then s else s.modCore dst fun k => k.fill c e.mem sl priv (if priv then 0 else readers)
    let s := parts.foldl (fun s p =>
      (s.writeH dst r.slot e p.1 p.2 (.slice r.slot c r.num)).countAcc r.slot e.mem true ((s.ctx r.slot).writeAddr dst e p.1) p.2.length) s
    (s.countMove c dst (natSum (parts.map fun p => p.2.length)), none)

/-- An item of a message command leaves the mesh port, and frees its grant-table entry (R248). -/
def State.releaseItem (s : State) (c : PCore) (src : Nat) (it : Item) : State :=
  let s := s.modCore c fun k => { k with grants := k.grants.putN it.hdr.gid none }
  let s := s.countCore c 17 (ceilDiv it.data.length 64)
  s.sendItem src it

/-- A stash directory entry leaves through a memory port; a spilled item joins its context's spill queue, which drains under
the pitch's write regulator (R192). -/
def State.releaseStash (s : State) (c : PCore) (i : Slot) (dir : Nat) (entry : List Byte) (spill : Option (Nat × List Byte)) : State :=
  let s := match spill with
    | some p => (s.modCtx i fun k => { k with spillq := k.spillq ++ [({ addr := p.1, bytes := p.2, core := c } : SpillItem)] }).drainSpill i
    | none => s
  (s.devWrite dir entry (.spill i c)).countWr i dir 16

/-- The core of this chip that a remote window write goes to. -/
def State.rwriteDst (s : State) (i : Slot) (it : Item) : Option PCore :=
  if it.hdr.kind = kWrite && it.hdr.dstChip = s.mgmt.chip then s.imageCore (s.ctx i).policy.pitch it.hdr.dstCore else none

/-- The result at the head of the sequence leaves the core's mesh port (R133); the cores that it writes get a fill notice at
the instance's next POST or DONE (R130). -/
def State.orderedRelease (s : State) (c : PCore) : State :=
  if !s.runs then s else
  match (s.core c).relBuf.find? fun r => r.seq == (s.core c).nextRel with
  | none => s
  | some r =>
    if s.frozen r.slot then s else
    let s := s.modCore c fun k => ({ k with relBuf := k.relBuf.filter fun y => y.seq != r.seq, nextRel := k.nextRel + 1 } : Core).skipSeq
    let wrote (s : State) (dst : PCore) : State :=
      if dst = c then s else s.modSeq c fun q =>
        if q.inst == some r.inst && !q.wrote.contains dst then { q with wrote := q.wrote ++ [dst] } else q
    match r.kind with
    | .mesh items => items.foldl (fun s i =>
        match s.rwriteDst r.slot i.2 with
        | some dst => wrote (s.releaseItem c i.1 i.2) dst
        | none => s.releaseItem c i.1 i.2) s
    | .stash dir entry spill => s.releaseStash c r.slot dir entry spill
    | .write dst h parts priv readers =>
      match s.releaseWrite c r dst h parts priv readers with
      | (s, some code) => s.fault c r.slot code
      | (s, none) => wrote s dst
    | .gacc dst first count adds =>
      match s.gaccApply dst r.inst first count adds with
      | (s, some code) => s.fault c r.slot code
      | (s, none) => wrote (s.countMove c dst r.bytes) dst

/-! ### The commands -/

def execCommandStart (core : PCore) (u : StartOf) (s : State) : Host.Outcome State Fault Refusal := s.run fun s => s.commandStart core (unitNum u.unit) u.upset
def execCommandComplete (core : PCore) (u : CmdUnit) (s : State) : Host.Outcome State Fault Refusal := s.run fun s => s.commandComplete core (unitNum u)
def execOrderedRelease (core : PCore) (s : State) : Host.Outcome State Fault Refusal := s.run fun s => s.orderedRelease core

end Sys2Proof.Machine
end

