-- ==== Sys2Proof/Machine/Context.lean ====
section
/-! DEFINITION. Sys2Proof/Machine/Context.lean: LOAD_IMAGE (R301), KILL (R102, R304), READ_COUNTERS (R305) and SET_POLICY
(R95, R96, R306). -/

namespace Sys2Proof.Machine

/-! ### LOAD_IMAGE of a task-graph image -/

/-- LOAD_IMAGE, KIND 0: the image is read and checked, and waits for its Bell (R64, R65). -/
def State.loadImageRow (s : State) (r : Ring) : State :=
  s.descRow r 0x20 (some [.opened, .loaded]) (fun d _ _ => (le64 d 16).toNat % 16 == 0) fun d c i s =>
    let addr := (le64 d 16).toNat
    let s := s.countImage i addr (ImageFile.ofHeader (s.devRead addr 128)).len
    match s.loadCheck i addr with
    | .error code => s.finish c code
    | .ok im => (s.dropPending i).modCtx i fun x => { x with pending := some (im, c) }

/-! ### KILL -/

/-- A KILL row: in order, or from SQ_HEAD + 1 at once while the SUBMIT_SLICE at SQ_HEAD has its slice in service, and then
rejected or handled there (R296); the SUBMIT_SLICE of a ring that another has replaced is at no SQ_HEAD, and a KILL of the new ring
waits for it. A KILL that names a context in OPEN or TORN is rejected with CTX_STATE, from the admin ring
too: R102 lets a KILL without a slice complete, R95 rejects what Table 5.1 does not name for the state (DESIGN CHOICE, log
entry 75). -/
def State.killRow (s : State) (r : Ring) (row : Nat) (arg : List Byte → State → Slot → Bool)
    (body : List Byte → CompRef → Slot → State → State) : State :=
  match r with
  | .admin => s.descRow r row (some [.loaded]) arg body
  | .slot i =>
    if (s.ctx i).desc.isNone then s.descRow r row (some [.loaded]) arg body else
    let x := s.ringOf r
    let at_ := (x.head + 1) % 2 ^ 32
    let d := s.descAt r at_
    let kill := rowOf d == some row || (dType d == 5 && (rowOf d).isNone)
    if !s.runs || !(s.ctx i).descAtHead || !s.ringReads r || span 32 x.tail x.head < 2 || x.ahead || (s.ctx i).slice.isNone || !s.cqRoom r || s.readsWait r at_ d || !kill then s else
    let c := s.refOf r x.cqTail at_ d
    let s := ((s.readReq true (s.descAddr r at_) 64 (ringWho r)).modRing r fun y => { y with cqTail := (y.cqTail + 1) % 2 ^ 31 }).hang
      oHost 0 0x61 (ringSlot r) (ringData r at_)
    match s.descCheck r d (some [.loaded]) (arg d) with
    | some code => s.finish c code
    | none => body d c i s

/-- The KILL of a context's slice in service (R102); a slice held for its decision is past B+1 and is not touched. -/
def State.killCtx (s : State) (i : Slot) (code : W16) : State :=
  if (s.ctx i).slice.isNone || (s.ctx i).held.isSome then s else
  let s := (s.killSlice i).endDesc i code
  s.modCtx i fun c => { c with barred := true, outcome := some (2, code) }

/-- KILL without a resolution. -/
def State.killDesc (s : State) (r : Ring) : State :=
  s.killRow r 0x50 (fun _ _ _ => true) fun _ c i s => ((s.killCtx i 0x3117).finish c 0).settle

/-- KILL with a resolution COMMIT or ABORT, of a context held in doubt at the step that it names (R45, R304). -/
def State.killResolve (s : State) (r : Ring) : State :=
  s.killRow r 0x51 (fun d s i => (s.ctx i).inDoubt && le64 d 24 == (s.ctx i).step) fun d c i s =>
    let step := (s.ctx i).step
    let s := s.modCtx i fun x => { x with awaits := false }
    let s := if dByte d 16 = 1 then s.commit i
      else (s.modCtx i fun x => { x with held := none, inDoubt := false }).overrun i (s.ctx i).policy.teardown
    (s.finish c 0 step).settle

/-! ### READ_COUNTERS -/

/-- READ_COUNTERS (R305, R364): a snapshot written to host memory, its time-stamp in DETAIL. -/
def State.readCounters (s : State) (r : Ring) : State :=
  s.descRow r 0x70 none (fun d _ _ =>
      (le64 d 16).toNat % 64 == 0 && decide (1 ≤ (le16 d 26).toNat) && decide ((le16 d 26).toNat ≤ 512) && (dByte d 28 == 1 || (dSlot d).isSome))
    fun d c i s =>
      let vals := (List.range (le16 d 26).toNat).map fun k =>
        let n := (le16 d 24).toNat + k
        if dByte d 28 = 1 then s.globalCounter n else s.ctxCounter i n
      let s := s.hostWrite (le64 d 16).toNat (vals.flatMap (leBytes 8)) (.desc c)
      s.finish c 0 0 (BitVec.ofNat 32 s.clk.time)

/-! ### SET_POLICY -/

/-- The group block of a parameter block (R306). -/
def GroupBlk.ofBytes (bs : List Byte) : GroupBlk :=
  { linked := bit (le16 bs 32) 0, decider := (bs[33]?.getD 0).toNat, members := (bs[34]?.getD 0).toNat
    pairs := (List.range 8).map fun k => ((bs[48 + 2 * k]?.getD 0).toNat, (bs[49 + 2 * k]?.getD 0).toNat) }

/-- Reserved bits of a parameter block. -/
def paramReserved (bs : List Byte) : Bool := setupReserved bs || fld (le16 bs 32) 7 1 ≠ 0 || !zeroBytes bs 35 48

/-- Fields of a parameter block out of range: ring sizes 2^6 to 2^16, members 2 to 8 of a linked group. -/
def paramBad (bs : List Byte) : Bool :=
  let r := RingSetup.ofBytes bs
  let g := GroupBlk.ofBytes bs
  decide (r.sqLog < 6) || decide (16 < r.sqLog) || decide (r.cqLog < 6) || decide (16 < r.cqLog) ||
  (g.linked && (decide (g.members < 2) || decide (8 < g.members)))

/-- A SWAP_INDEX of 0 to 4,095 or none. -/
def swapIndexOk (w : W64) : Bool := let n := fld w 31 16; decide (n < 4096) || n == 0xFFFF

/-- The parameter block that a SET_POLICY names. -/
def State.paramBlock (s : State) (d : List Byte) : List Byte := s.hostRead (le64 d 40).toNat 64

/-- Checks on the policy word and, where one is given, the parameter block: the code of the first that fails. -/
def State.policyCheck (s : State) (d : List Byte) : Option W16 :=
  let bs := s.paramBlock d
  let given := le64 d 40 ≠ 0
  if policyReserved (le64 d 24) || (given && paramReserved bs) then some 0x8101
  else if !swapIndexOk (le64 d 24) || (given && paramBad bs) then some 0x8102 else none

/-- OPEN (Table 5.2): CTX_GEN advances, instance generation and step are 0, the context counters are cleared (R361). -/
def State.openCtx (s : State) (r : Ring) : State :=
  s.descRow r 0x80 (some [.free]) (fun d _ _ => (le64 d 32).toNat % 64 == 0 && le64 d 40 != 0 && (le64 d 40).toNat % 64 == 0) fun d c i s =>
    let s := s.readReq true (le64 d 40).toNat 64 (.ctx i)
    match s.policyCheck d with
    | some code => s.finish c code
    | none =>
      let bs := s.paramBlock d
      let s := s.modCtx i fun x => { x with
        state := .opened, id := le32 d 20, ctxGen := x.ctxGen + 1, igen := 0, step := 0, draining := false, awaits := false, votes := []
        policy := Policy.ofWord (le64 d 24), policyNext := none, setup := RingSetup.ofBytes bs, setupNext := none
        group := GroupBlk.ofBytes bs, groupNext := none, doorbell := (le64 d 32).toNat, backing := (le64 d 48).toNat, backingNext := none
        ring := {}, ringSetups := x.ringSetups + 1, counters := Tab.fill 32 0, act := {}, tallySeq := 0, barred := false, madeCurrent := [], quota := x.quotaReg }
      s.finish c 0

/-- UPDATE (R96): it takes effect at the first Bell at which the context has no slice in service. -/
def State.updateCtx (s : State) (r : Ring) : State :=
  s.descRow r 0x81 (some [.opened, .loaded, .torn]) (fun d _ _ => (le64 d 40).toNat % 64 == 0) fun d c i s =>
    let p := Policy.ofWord (le64 d 24)
    match s.policyCheck d with
    | some code => s.finish c code
    | none =>
      if le32 d 20 ≠ (s.ctx i).id || p.pitch ≠ (s.ctx i).policy.pitch then s.finish c 0x3110 else
      let bs := s.paramBlock d
      let given := le64 d 40 ≠ 0
      let s := if given then s.readReq true (le64 d 40).toNat 64 (.ctx i) else s
      let s := s.modCtx i fun x => { x with
        policyNext := some p, backingNext := some (le64 d 48).toNat
        setupNext := if given then some (RingSetup.ofBytes bs) else x.setupNext
        groupNext := if given then some (GroupBlk.ofBytes bs) else x.groupNext }
      s.finish c 0

/-- RESUME (Table 5.2, R108, R337): the slot is LOADED again, its kernel placed anew, and after MEM_UE its rows too; or OPEN where it
has no image. -/
def State.resumeCtx (s : State) (r : Ring) : State :=
  s.descRow r 0x82 (some [.torn]) (fun _ _ _ => true) fun d c i s =>
    let x := s.ctx i
    if le32 d 20 ≠ x.id || x.noResume then s.finish c 0x3110 else
    match x.image with
    | none => (s.modCtx i fun x => { x with state := .opened, ctxGen := x.ctxGen + 1, reload := false }).finish c 0
    | some im =>
      match s.roomCheck i im, s.kernelPlace i im.kernelLen with
      | none, some base =>
        let s := if x.reload then s.reloadRows i im else s
        let s := (s.placeKernel i im base).modCtx i fun x => { x with state := .loaded, ctxGen := x.ctxGen + 1, reload := false }
        s.finish c 0
      | _, _ => s.finish c 0x3110

/-- What a CLOSE ends at once (Table 5.2): the slice is killed and what the context owes is completed; its stores are freed at
the next Bell, those of a TORN context having been freed at its teardown (R63, R71). SEED and FREE become 0 (R322). It
governs over an EVICT of the period, which lapses (R103). -/
def State.closeKill (s : State) (i : Slot) : State :=
  let had := (s.ctx i).slice.isSome
  let s := ((s.killSlice i).endDesc i 0x3117).dropPending i
  let s := match (s.ctx i).evict with
    | some e => match e.comp with | some k => s.finish k 0x3110 | none => s
    | none => s
  s.modCtx i fun x => { x with
    outcome := if had || (x.evict.isSome && (x.outcome.map (·.1)) == some 4) then some (2, 0x3117) else x.outcome
    toFree := match x.image with
      | some im => x.toFree ++ [(if x.state = .torn then im.tornPart else im, x.kernBase, x.policy.pitch)]
      | none => x.toFree
    seedReg := 0, freeReg := false }

/-- CLOSE of a context: the slot is FREE at once, or, where a completion of its SUBMIT_SLICE or LOAD_IMAGE still waits for
acknowledgements (R298), once these are written (Table 5.2). Until then no ring of the slot is read and it takes no
descriptor but those of a TORN slot, without RESUME (DESIGN CHOICE, log entry 84). -/
def State.closeSlot (s : State) (i : Slot) (c : CompRef) : State :=
  let s := s.closeKill i
  if s.compsOwed i then
    ((s.modCtx i fun x => { x with state := .torn, noResume := true, image := none }).hold { comp := c, waitFor := .close i }).settle
  else ((s.modCtx i Ctx.keepTally).emptySlot i).settle.finish c 0

/-- CLOSE. -/
def State.closeCtx (s : State) (r : Ring) : State :=
  s.descRow r 0x83 (some [.opened, .loaded, .torn]) (fun _ _ _ => true) fun d c i s =>
    if le32 d 20 ≠ (s.ctx i).id then s.finish c 0x3110 else s.closeSlot i c

def execLoadImage (r : Ring) (s : State) : Host.Outcome State Fault Refusal := s.run fun s => s.loadImageRow r
def execKill (r : Ring) (s : State) : Host.Outcome State Fault Refusal := s.run fun s => s.killDesc r
def execKillResolution (r : Ring) (s : State) : Host.Outcome State Fault Refusal := s.run fun s => s.killResolve r
def execReadCounters (r : Ring) (s : State) : Host.Outcome State Fault Refusal := s.run fun s => s.readCounters r
def execOpenContext (r : Ring) (s : State) : Host.Outcome State Fault Refusal := s.run fun s => s.openCtx r
def execUpdatePolicy (r : Ring) (s : State) : Host.Outcome State Fault Refusal := s.run fun s => s.updateCtx r
def execSetPolicyResume (r : Ring) (s : State) : Host.Outcome State Fault Refusal := s.run fun s => s.resumeCtx r
def execCloseContext (r : Ring) (s : State) : Host.Outcome State Fault Refusal := s.run fun s => s.closeCtx r

end Sys2Proof.Machine
end

