-- ==== Sys2Proof/Machine/Access.lean ====
section
/-! DEFINITION. Sys2Proof/Machine/Access.lean: what a register write answers, and the control registers of the Bell (R21, R41,
R47) and of the trace (R368, R371), which a DEBUG descriptor also reaches. -/

namespace Sys2Proof.Machine

/-- What a write at an offset answers: no register there, a write that the block ignores, or a write that it accepts. -/
inductive Wr where
  | absent
  | ignored (s : State)
  | done (s : State)
deriving DecidableEq, Repr

/-- The state after the write, of a state before it. -/
def Wr.after (w : Wr) (s : State) : State :=
  match w with
  | .absent => s
  | .ignored t => t
  | .done t => t

/-- A write outside the range of its register is ignored and reported. -/
def State.rangeIgnored (s : State) (code : W16 := 0x3116) : Wr := .ignored (s.note code)

/-! ### BEL.CTRL -/

/-- BEL.CTRL as it reads (Table 2.1). -/
def State.belCtrl (s : State) : W32 :=
  BitVec.ofNat 32 (b2n s.bel.en ||| b2n s.bel.master <<< 1 ||| b2n s.bel.linked <<< 2 ||| b2n s.bel.stopAt <<< 3 ||| s.bel.upstream.val <<< 8)

/-- The fields of BEL.CTRL. -/
def BellSt.setCtrl (b : BellSt) (v : W32) : BellSt :=
  { b with en := bit v 0, master := bit v 1, linked := bit v 2, stopAt := bit v 3, upstream := ⟨fld v 9 8 % 4, by omega⟩ }

/-- A write of EN = 1 while the block is stopped at a Bell resumes the Bells from the cut (R21, R47). -/
def State.resumeCut (s : State) : State :=
  if s.bel.master || s.bel.linked then { s with bel := { s.bel with awaiting := some s.clk.time, waitSaid := false } }
  else { s with bel := { s.bel with stopped := false, running := true, last := s.clk.time, period := s.bel.periodReg } }

/-- The start barrier begins (R21, R40, R41): it completes at once on a chip that neither leads nor follows another, but behind a
stop-now that is requested or in force (R354). -/
def State.startBarrier (s : State) : State :=
  if s.bel.master || s.bel.linked then { s with bel := { s.bel with awaiting := some s.clk.time, waitSaid := false } }
  else
    let s : State := { s with bel := { s.bel with barrier := some (s.clk.time, s.clk.time) } }
    if s.bellDue then s.bellNow else s

/-- A write of BEL.CTRL. -/
def State.writeBelCtrl (s : State) (v : W32) : Wr :=
  if bit v 1 && bit v 2 then .ignored (s.note 0x2013)
  else
    let was := s.bel.en
    let s : State := { s with bel := s.bel.setCtrl v }
    if !s.bel.en then .done { s with bel := { s.bel with running := false, locked := false, barrier := none, awaiting := none } }
    else if s.errs.fatal then .done s
    else if s.bel.stopped then .done (if s.bel.stopAt then s else s.resumeCut)
    else if was then .done s
    else .done s.startBarrier


/-! ### TRC.CTRL -/

/-- TRC.CTRL as it reads (Table 16.12). -/
def State.trcCtrl (s : State) : W32 := BitVec.ofNat 32 (b2n s.trc.en ||| s.trc.policy <<< 2 ||| b2n s.trc.portEn <<< 4)

/-- A SYNC record (Table 16.10). -/
def State.traceSyncRecord (s : State) : State :=
  ({ s with trc := { s.trc with syncAt := s.clk.time } } : State).trace 1 0x7F oCtl
    (bodyAt [(8, leBytes 8 s.clk.time), (16, leBytes 8 s.bel.count.toNat)])

/-- The trace ring and the open packet are flushed (R241, R368). -/
def TrcSt.flush (t : TrcSt) : TrcSt := { t with ring := [], packet := [], heldPkt := none, stalled := [], beat := 0, out := none, epoch := t.epoch + 1 }

/-- The trace starts anew with EN = 1 (R368). -/
def TrcSt.begin (t : TrcSt) : TrcSt := { t.flush with en := true, frozen := false, triggered := false, lost := 0, lostSince := 0, left := none }

/-- A write of TRC.CTRL. Every write with EN = 1 starts the trace anew, one with EN already 1 too: R368 says it of the write
(DEDUCED, log entry 81). A TRIGGER in the same write comes after it. -/
def State.writeTrcCtrl (s : State) (v : W32) : Wr :=
  let pol := fld v 3 2
  if pol = 3 then .ignored s
  else if pol = 1 && !s.cfg.debug then .ignored (s.note 0xC005)
  else
    let t := s.trc
    let s : State := { s with trc := { t with policy := pol, portEn := bit v 4 } }
    let s : State :=
      if !bit v 0 then { s with trc := { s.trc.flush with en := false } }
      else ({ s with trc := s.trc.begin } : State).traceSyncRecord
    .done (if bit v 5 then s.triggerTrace else s)


end Sys2Proof.Machine
end

