-- ==== Sys2Proof/Machine/Fec.lean ====
section
/-! DEFINITION. Sys2Proof/Machine/Fec.lean: the forward error correction of the link: RS(544,514) over GF(2^10) (R264).
The field polynomial x^10 + x^3 + 1, the generator with the roots α^0 to α^29 and the symbol order (the first symbol sent is
the coefficient of the highest power) are those of IEEE 802.3 Clause 91 (PRESUMED, log entry 79). -/

namespace Sys2Proof.Machine

/-- A symbol of 10 bits. -/
abbrev Sym := BitVec 10

/-- Times α in GF(2^10). -/
def symDouble (a : Sym) : Sym := if a.getLsbD 9 then (a <<< 1) ^^^ 9 else a <<< 1

/-- The product of a and the low n bits of b. -/
def symMulBits (b : Sym) : Nat → Sym → Sym
  | 0, _ => 0
  | n + 1, a => (if b.getLsbD (9 - n) then a else 0) ^^^ symMulBits b n (symDouble a)

/-- The product in GF(2^10). -/
def symMul (a b : Sym) : Sym := if a = 0 || b = 0 then 0 else symMulBits b 10 a

/-- α^n. -/
def symAlpha : Nat → Sym
  | 0 => 1
  | n + 1 => symDouble (symAlpha n)

/-- Repeated squares of a, multiplied: a^(2 + 4 + … + 2^n). -/
def symSquares : Nat → Sym → Sym
  | 0, _ => 1
  | n + 1, a => symMul (symMul a a) (symSquares n (symMul a a))

/-- The inverse of a: a^1022. -/
def symInv (a : Sym) : Sym := symSquares 9 a

/-- Value of a polynomial, lowest coefficient first. -/
def symEval (p : List Sym) (x : Sym) : Sym := p.foldr (fun c acc => c ^^^ symMul acc x) 0

/-- Sum of two polynomials. -/
def symAdd : List Sym → List Sym → List Sym
  | [], q => q
  | p, [] => p
  | a :: p, b :: q => (a ^^^ b) :: symAdd p q

/-- Product of a polynomial and a symbol. -/
def symScale (k : Sym) (p : List Sym) : List Sym := p.map (symMul k)

/-- Product of two polynomials. -/
def symProd : List Sym → List Sym → List Sym
  | [], _ => []
  | a :: p, q => symAdd (symScale a q) (0 :: symProd p q)

/-! ### Encoding -/

/-- The generator polynomial, lowest coefficient first: the product of x − α^j for j from 0 to n − 1. -/
def rsGenerator : Nat → List Sym
  | 0 => [1]
  | n + 1 => symProd [symAlpha n, 1] (rsGenerator n)

/-- One step of the division by the generator: the remainder, highest coefficient first, after a data symbol. -/
def rsShift (gen rem : List Sym) (d : Sym) : List Sym :=
  let f := d ^^^ rem.headD 0
  (rem.drop 1 ++ [0]).zipWith (fun r g => r ^^^ symMul f g) gen

/-- The 30 parity symbols of 514 data symbols, in the order sent. -/
def rsParity (data : List Sym) : List Sym :=
  data.foldl (rsShift ((rsGenerator 30).reverse.drop 1)) (List.replicate 30 0)

/-- A codeword in the order sent: its data and its parity. -/
def rsEncode (data : List Sym) : List Sym := data ++ rsParity data

/-! ### Decoding

The code is linear: the decoder's work depends on the symbols in error alone, each with its position in the codeword, from 0 in
the order sent, and the difference that it shows. -/

/-- The locator of a position: α to the power of its coefficient. -/
def rsLocator (pos : Nat) : Sym := symAlpha (543 - pos)

/-- The first n power sums of terms, each a locator and a value. -/
def rsPowers : Nat → List (Sym × Sym) → List Sym
  | 0, _ => []
  | n + 1, t => t.foldl (fun a e => a ^^^ e.2) 0 :: rsPowers n (t.map fun e => (e.1, symMul e.1 e.2))

/-- The 30 syndromes of a set of symbols in error. -/
def rsSyndromes (errs : List (Nat × Sym)) : List Sym := rsPowers 30 (errs.map fun e => (rsLocator e.1, e.2))

/-- The state of the search for the error locator: the locator, the one before it, its length, the steps since, and the
discrepancy then. -/
structure RsSearch where
  cur : List Sym := [1]
  old : List Sym := [1]
  len : Nat := 0
  gap : Nat := 1
  disc : Sym := 1
deriving DecidableEq, Repr

/-- One step of the search (Berlekamp–Massey) at syndrome n. -/
def rsStep (syn : List Sym) (b : RsSearch) (n : Nat) : RsSearch :=
  let d := (List.range (b.len + 1)).foldl (fun a k => a ^^^ symMul (b.cur.getD k 0) (syn.getD (n - k) 0)) 0
  if d = 0 then { b with gap := b.gap + 1 } else
  let next := symAdd b.cur (List.replicate b.gap 0 ++ symScale (symMul d (symInv b.disc)) b.old)
  if 2 * b.len ≤ n then { cur := next, old := b.cur, len := n + 1 - b.len, gap := 1, disc := d }
  else { b with cur := next, gap := b.gap + 1 }

/-- The symbol to correct at a position that the locator names (Forney). -/
def rsValue (locator evaluator : List Sym) (pos : Nat) : Sym :=
  let inv := symInv (rsLocator pos)
  let slope := symEval ((locator.drop 1).zipIdx.map fun e => if e.2 % 2 = 0 then e.1 else 0) inv
  symMul (rsLocator pos) (symMul (symEval evaluator inv) (symInv slope))

/-- What the decoder corrects (R264): at most 15 symbols, with their positions and differences; none where it detects
more errors. -/
def rsCorrect (errs : List (Nat × Sym)) : Option (List (Nat × Sym)) :=
  let errs := errs.filter fun e => decide (e.2 ≠ 0)
  if errs.isEmpty then some [] else
  let syn := rsSyndromes errs
  if syn.all (· == 0) then some [] else
  let b := (List.range 30).foldl (rsStep syn) {}
  if 15 < b.len then none else
  let found := (List.range 544).filter fun pos => symEval b.cur (symInv (rsLocator pos)) == 0
  let evaluator := (symProd syn b.cur).take 30
  let fix := found.map fun pos => (pos, rsValue b.cur evaluator pos)
  if found.length = b.len && rsSyndromes fix == syn then some fix else none

/-- The symbols that are still wrong once a correction has been made. -/
def rsLeft (errs fix : List (Nat × Sym)) : List (Nat × Sym) := (errs ++ fix).filter fun e => decide (e.2 ≠ 0)

end Sys2Proof.Machine
end

