-- ==== Sys2Proof/Machine/Link.lean ====
section
/-! DEFINITION. Sys2Proof/Machine/Link.lean: Ohmox Link: groups (R265, R266), the states of a port with its retrains and
failures (R274 to R277), lane exchange (R278), and what a port sends (R267 to R269, R273, R279 to R281). -/

namespace Sys2Proof.Machine

/-- The link ports are out of park (R384, R386). -/
def State.linkOn (s : State) : Bool := ((s.cfg.domains.at? 10).getD {}).unparked

/-! ### Groups -/

/-- A group header (Table 12.2). -/
def groupHdr (gtype : Nat) (seq ack : BitVec 12) (nak : Bool) (cvc : Nat) (credits : BitVec 12) (map : Nat) : BitVec 112 :=
  BitVec.ofNat 112 (gtype <<< 108 ||| seq.toNat <<< 96 ||| ack.toNat <<< 84 ||| b2n nak <<< 83 ||| cvc <<< 80 ||| credits.toNat <<< 68 ||| map <<< 36)

/-- Bytes 0 to 525 of a group. -/
def groupBytes (hdr : BitVec 112) (slots : List (BitVec 256)) : List Byte := leBytes 14 hdr.toNat ++ slots.flatMap fun x => leBytes 32 x.toNat

/-- A group with its CRC. -/
def mkGroup (hdr : BitVec 112) (slots : List (BitVec 256)) : Group := { hdr := hdr, slots := slots, crc := crc32 (groupBytes hdr slots) }

/-- GTYPE of a group. -/
def gType (g : Group) : Nat := fld g.hdr 111 108
/-- SEQ of a group. -/
def gSeq (g : Group) : BitVec 12 := g.hdr.extractLsb' 96 12
/-- The kind of slot n of a group. -/
def slotKind (g : Group) (n : Nat) : Nat := fld g.hdr (37 + 2 * n) (36 + 2 * n)
/-- The slots of a group with their kinds. -/
def kindSlots (g : Group) : List (Nat × BitVec 256) := g.slots.zipIdx.map fun x => (slotKind g x.2, x.1)
/-- SLOTMAP of a list of slots with their kinds. -/
def slotMap (l : List (Nat × BitVec 256)) : Nat := natSum (l.zipIdx.map fun x => (x.1.1 % 4) <<< (2 * x.2))
/-- Slots filled up to the sixteen of a group. -/
def fill16 (l : List (Nat × BitVec 256)) : List (Nat × BitVec 256) := l.take 16 ++ List.replicate (16 - l.length) (0, 0)

/-- CTYPE of a link-control slot. -/
def cType (x : BitVec 256) : Nat := fld x 7 0
/-- A timed link-control slot (Table 12.5). -/
def timedSlot (x : BitVec 256) : Bool := decide (1 ≤ cType x) && decide (cType x ≤ 4)

/-- A link-control slot is as Tables 12.5 and 12.6 lay it out: its CTYPE is a kind, the bytes that the kind does not use and the
reserved fields are zero, and no enumerated field holds a reserved encoding. One that is not is malformed (R6): it is ignored
and counted as a reserved CTYPE is (DESIGN CHOICE, log entry 80). -/
def ctlClean (x : BitVec 256) : Bool :=
  match cType x with
  | 1 => fld x 15 13 = 0 && fld x 31 24 = 0 && fld x 63 59 = 0
  | 2 => fld x 15 13 = 0 && fld x 31 24 = 0 && fld x 127 59 = 0
  | 3 => fld x 63 8 = 0 && fld x 255 128 = 0
  | 4 => fld x 63 8 = 0
  | 5 => fld x 31 17 = 0 && fld x 255 96 = 0
  | 6 => fld x 31 24 = 0 && fld x 255 128 = 0
  | 7 => fld x 31 24 = 0 && fld x 135 129 = 0 && fld x 255 137 = 0
  | 8 => fld x 255 8 = 0
  | _ => false

/-- A slot of the link-control kind that is reserved or malformed. -/
def badCtl (c : Nat × BitVec 256) : Bool := c.1 = 3 && !ctlClean c.2

/-- Groups of 530 bytes as codewords of 514 symbols (R264, R265). -/
def codewordsOf (groups : Nat) : Nat := groups * 4240 / 5140

/-- The bits of a group, byte 0 bit 0 lowest, its CRC last (R265). -/
def groupNumber (g : Group) : Nat := leNat (groupBytes g.hdr g.slots ++ leBytes 4 g.crc.toNat)

/-- The 424 symbols of a group, bit 0 of each first (R263, R265). -/
def groupSyms (g : Group) : List Sym :=
  let v := groupNumber g
  (List.range 424).map fun i => BitVec.ofNat 10 (v >>> (10 * i))

/-- Symbols join the data field of the codeword that the port fills; a full one is encoded and sent (R264). -/
def Port.encode (x : Port) (l : List Sym) : Port :=
  let d := x.txData ++ l
  if d.length < 514 then { x with txData := d } else
    { x with txData := d.drop 514, codeword := rsEncode (d.take 514), before := x.codeword, words := x.words + 1 }

/-! ### Lanes (R263, R264, R278) -/

/-- The physical lanes that the map names. -/
def Port.mapped (x : Port) : List Nat := (List.range 8).map fun j => fld x.laneMap (4 * j + 3) (4 * j)

/-- The physical lanes of logical lanes 0, 1, …: those of width 4, or the eight of the map (R264, R274). -/
def Port.symbolLanes (x : Port) : List Nat :=
  if x.width = 4 then (List.range 9).filter fun l => x.used.getLsbD l else x.mapped

/-- Those lanes in one direction, in which an exchange may have moved the logical lane to the spare already (R278). -/
def Port.dirLanes (x : Port) (moved : LaneSwap → Bool) : List Nat :=
  match x.swap with
  | some w => if moved w then x.symbolLanes.map fun l => if l = w.lane then x.spareLane else l else x.symbolLanes
  | none => x.symbolLanes

/-- The lanes of the transmit direction. -/
def Port.txLanes (x : Port) : List Nat := x.dirLanes (·.txDone)
/-- The lanes of the receive direction. -/
def Port.rxLanes (x : Port) : List Nat := x.dirLanes (·.rxDone)

/-- The physical lane on which symbol i of a received codeword came. -/
def Port.laneOf (x : Port) (i : Nat) : Nat := x.rxLanes.getD (i % max 1 x.rxLanes.length) 0

/-- Symbol n of a logical lane, counted from the first that the last two codewords put on it: symbol i of a codeword is sent
on logical lane i mod W (R264). -/
def Port.laneSym (x : Port) (w lane n : Nat) : Sym :=
  let per := 544 / w
  if n < per then (x.before[n * w + lane]?).getD 0 else (x.codeword[(n - per) * w + lane]?).getD 0

/-- Word k of a logical lane among those that the last codeword completes: 16 symbols, symbol i in [10i+9:10i], symbol 0 the
first sent (R263). A lane's words go on from codeword to codeword. -/
def Port.laneWord (x : Port) (lane k : Nat) : BitVec 160 :=
  let w := max 1 x.txLanes.length
  let per := 544 / w
  let at' := per - per * (x.words - 1) % 16 + 16 * k
  BitVec.ofNat 160 (natSum ((List.range 16).map fun i => (x.laneSym w lane (at' + i)).toNat <<< (10 * i)))

/-- The logical lane whose symbols a physical lane sends; a lane that serves none is spare, and sends a copy of logical lane 0
(R278). -/
def Port.logicalOf (x : Port) (lane : Nat) : Nat := (x.txLanes.findIdx? (· == lane)).getD 0

/-- LKp_PHYRST_N: 0 holds the PHY lanes of the port in reset: while EN is 0, in DOWN, and while the ports are parked (R263, R274,
R384). -/
def State.phyRstN (s : State) (p : LPort) : Bool := s.linkOn && (s.port p).en && decide ((s.port p).state ≠ 0)

/-! ### State changes of a port -/

/-- DATA of a link event of Table 16.5. -/
def Port.eventData (x : Port) : W64 := BitVec.ofNat 64 (x.state ||| x.seq.toNat <<< 4 ||| x.lastGood.toNat <<< 16)

/-- A port enters a state. -/
def State.setPort (s : State) (p : LPort) (st : Nat) : State :=
  let s := s.modPort p fun x => { x with state := st, since := s.clk.time }
  s.hang (oLink p) 0 0x50 0x7F (s.port p).eventData

/-- A report of a port. -/
def State.notePort (s : State) (p : LPort) (code : W16) : State := s.report { code := code, origin := oLink p }

/-- A port enters LOCK: its training starts anew (R274). -/
def State.enterLock (s : State) (p : LPort) : State :=
  (s.modPort p fun x => { x with
    width := 0, trainCount := 0, trainRx := none, trainAcks := 0, aligned := 0, tsCount := 0, tsDiscards := 0, tsT1 := none
    used := 0, failed := false }).setPort p 1

/-- A retrain (R276): nothing of the link state is lost. -/
def State.retrain (s : State) (p : LPort) : State :=
  if (s.port p).state = 0 then s else
  let s := (s.notePort p 0x7002).count (0x1906 + 64 * p.val) 1
  (s.modPort p fun x => { x with retraining := x.retraining || decide (5 ≤ x.state) }).enterLock p

/-- A context of this chip that an item belongs to: the sender of a command, or the receiver that answers. -/
def State.itemCtx (s : State) (it : Item) : List Slot :=
  if it.hdr.srcChip ≠ s.mgmt.chip then []
  else match slot? it.slot with
    | some i => [i]
    | none => allSlots.filter fun i => (s.ctx i).resident && (s.ctx i).id == it.hdr.ctxId

/-- The contexts that a port going down ends (R277): with a grant-table entry awaiting the port, or an item queued on it. -/
def State.portContexts (s : State) (p : LPort) : List Slot :=
  let x := s.port p
  let waiting := allCores.flatMap fun c => (s.core c).grants.toList.filterMap fun g => match g with
    | some e => if !e.granted && e.hdr.dstChip != s.mgmt.chip && (s.mgmt.routes.find e.hdr.dstChip).getD 7 == p.val then some e.slot else none
    | none => none
  let items := x.vc0 ++ x.vc1 ++ x.vc2.map (·.2) ++ (match x.txOpen with | some o => [o.item] | none => [])
  let all := waiting ++ items.flatMap s.itemCtx
  allSlots.filter fun i => all.contains i

/-- What a port going down discards (R277). -/
def Port.discard (x : Port) : Port :=
  { x with
    replay := [], resend := [], idleReplays := 0, nakAck := none, seq := 0, lastGood := 0xFFF, nakSent := false, nakDue := false
    sent := Tab.fill 3 0, credits := Tab.fill 3 0, freed := Tab.fill 3 0, reported := Tab.fill 3 0
    vc0 := [], vc1 := [], vc2 := [], txOpen := none, timed := [], reliable := [], rxOpen := none, rxHeld := [], ctlIn := []
    tsync := [], tsT1 := none, swap := none, retraining := false, width := 0, used := 0, loopBack := [], out := none
    prbsRx := x.prbs, txData := [], codeword := [], before := [], words := 0 }

/-- The slots of an item: its header and two slots for each unit of its payload (R267), as far as they have come. -/
def itemSlots (it : Item) : List (BitVec 256) :=
  it.hdr.pack :: (List.range (if it.cut || decide (0 < it.due) then ceilDiv it.data.length 32 else if vcOf it.hdr.kind = 2 then 2 * it.hdr.units else 0)).map fun k =>
    BitVec.ofNat 256 (leNat ((it.data.drop (32 * k)).take 32))

/-- A first training is given up: no traffic has passed, and what waits to be sent stays. -/
def Port.abandon (x : Port) : Port := { x.discard with failed := false, vc0 := x.vc0, vc1 := x.vc1, vc2 := x.vc2, reliable := x.reliable }

/-- Slots of a channel have been passed on, and are freed (R268). -/
def State.creditSlots (s : State) (p : LPort) (v n : Nat) : State :=
  s.modPort p fun x => { x with freed := x.freed.putN v ((x.freed.at? v).getD 0 + BitVec.ofNat 12 n) }

/-- The slots of a forwarded item stay in the receive buffer of the port they came in on until the port they go to has
sent or dropped them (R268). -/
def State.creditItem (s : State) (it : Item) (n : Nat) : State :=
  match it.port with | some q => s.creditSlots q (vcOf it.hdr.kind) n | none => s

/-- The receive buffers of a port are discarded (R277), and with them every slot that the port to which it goes has not sent: an
item that waits there leaves its queue, and one that has begun is cut as R285 has it (DESIGN CHOICE, log entry 80). -/
def Port.loseSource (x : Port) (p : LPort) : Port :=
  let keep (it : Item) : Bool := it.port != some p
  let x : Port := { x with vc0 := x.vc0.filter keep, vc1 := x.vc1.filter keep, vc2 := x.vc2.filter fun e => keep e.2 }
  match x.txOpen with
  | some o => if keep o.item then x else { x with txOpen := none, reliable := x.reliable ++ [cutSlot] }
  | none => x

/-- A port goes down, and so do the items that other ports pass on to it (R270, R277). -/
def State.loseRoute (s : State) (p : LPort) : State :=
  let x := s.port p
  let s := (x.vc0 ++ x.vc1).foldl (fun s it => s.creditItem it 1) s
  let s := x.vc2.foldl (fun s e => s.creditItem e.2 (itemSlots e.2).length) s
  let s := match x.txOpen with | some o => s.creditItem o.item o.rest.length | none => s
  allPorts.foldl (fun s q =>
    match (s.port q).rxOpen with
    | some r => if r.fwd = some p then (s.modPort q fun y => { y with rxOpen := some { r with fwd := none } }).dropItem (16 + q.val) r.item else s
    | none => s) s

/-- A port goes down (R277). -/
def State.linkDown (s : State) (p : LPort) (failed : Bool) : State :=
  let l := s.portContexts p
  let s := s.notePort p 0x7004
  let s := l.foldl (fun s i => s.teardown i 0x7004 0 (oLink p)) s
  let s := ((s.loseRoute p).modPort p fun x => { x.discard with failed := failed }).setPort p 0
  allPorts.foldl (fun s q => s.modPort q fun x => x.loseSource p) s

/-- A training that fails (R274). -/
def State.trainFail (s : State) (p : LPort) (code : Option W16) : State :=
  let s := match code with | some k => s.notePort p k | none => s
  s.linkDown p true

/-- LNK.CTRL (Table 12.7). -/
def State.linkCtrl (s : State) (p : LPort) : W32 :=
  let x := s.port p
  BitVec.ofNat 32 (b2n x.en ||| b2n x.spareAuto <<< 2 ||| b2n x.degradeOk <<< 3 ||| x.loop <<< 4)

/-- A write of LNK.CTRL (R274, R276, R277). -/
def State.writeLinkCtrl (s : State) (v : W32) : Wr :=
  match (if h : s.mgmt.lnkSel < 4 then some (⟨s.mgmt.lnkSel, h⟩ : LPort) else none) with
  | none => .ignored s
  | some p =>
    if fld v 5 4 = 3 then .ignored s else
    let x := s.port p
    let s := s.modPort p fun x => { x with en := bit v 0, spareAuto := bit v 2, degradeOk := bit v 3, loop := fld v 5 4 }
    if !bit v 0 then
      if x.state ≥ 5 || x.retraining then .done (s.linkDown p false)
      else .done (if x.state = 0 then s.modPort p fun x => { x with failed := false } else (s.modPort p fun x => x.abandon).setPort p 0)
    else if !x.en then .done (s.enterLock p)
    else if bit v 1 then .done (s.retrain p)
    else .done s

/-! ### Lane exchange (R278) -/

/-- The port's spare is free: no map has used it, no exchange is in progress, and it is locked. -/
def State.spareFree (s : State) (p : LPort) : Bool :=
  let x := s.port p
  x.swap.isNone && x.width = 8 && x.rxlock.getLsbD x.spareLane &&
  !(s.errs.hard ++ s.errs.soft).any fun e => fld e 63 60 = 5 && fld e 9 8 = p.val

/-- A LANE_SWAP slot. -/
def laneSwapSlot (lane answer count : Nat) : BitVec 256 := BitVec.ofNat 256 (5 ||| lane <<< 8 ||| answer <<< 16 ||| count <<< 32)

/-- The codeword that this end announces: 128 codewords ahead of its transmit count. -/
def Port.announced (x : Port) : Nat := codewordsOf x.txGroups + 128

/-- This end starts the exchange of a lane. -/
def State.startSwap (s : State) (p : LPort) (lane : Nat) : State :=
  s.modPort p fun x => { x with
    swap := some { lane := lane, txAt := x.announced, rxAt := none }, reliable := x.reliable ++ [laneSwapSlot lane 0 x.announced] }

/-- A lane of an UP port is wanted out by the policy of R341: its spare takes its place, or it is reported exhausted. -/
def State.wearLane (s : State) (p : LPort) (lane : Nat) : State :=
  let x := s.port p
  if !x.spareAuto || x.state ≠ 5 || !x.mapped.contains lane then s
  else if s.spareFree p then s.startSwap p lane
  else if x.swap.isSome then s
  else s.exhaust (mapEntry 5 (p.val <<< 8 ||| lane))

/-- Corrected symbols of a lane enter its CE window (R341). -/
def State.countLane (s : State) (p : LPort) (lane n : Nat) : State :=
  if n = 0 then s else
  let s := (s.count (0x1910 + 64 * p.val + lane) n).modPort p fun x => { x with
    laneCe := x.laneCe.insert lane (windowAdd (x.laneCe.find lane) n s.errs.cewin.toNat s.clk.time) }
  let total := match (s.port p).laneCe.find lane with | some e => e.1 | none => 0
  if fld s.errs.thrLane 15 0 * 1024 ≤ total then s.wearLane p lane else s

/-- Both directions have moved: the map is updated, recorded, and the exchange is over. -/
def State.endSwap (s : State) (p : LPort) : State :=
  match (s.port p).swap with
  | some w =>
    if !(w.txDone && w.rxDone) then s else
    let s := s.modPort p fun x => { x with laneMap := replaceLane x.laneMap w.lane x.spareLane, swap := none, laneCe := x.laneCe.erase w.lane }
    let s := s.modPort p fun x => { x with used := BitVec.ofNat 9 (natSum (x.mapped.map fun l => 2 ^ l)) }
    (s.hang (oLink p) 0 0x53 0x7F (s.port p).eventData).addEntry (mapEntry 5 (p.val <<< 8 ||| w.lane))
  | none => s

/-! ### What a port sends -/

/-- The header fields that every DATA and IDLE group carries anew (R266): ACK, NAK, and the next channel whose count has
changed, with its count (R268). -/
def Port.nextCvc (x : Port) : Nat :=
  let changed (v : Nat) : Bool := x.freed.at? v != x.reported.at? v
  (([1, 2, 3].map fun d => (x.cvc + d) % 3).find? changed).getD x.cvc

/-- A group header with the fields of the moment, and the port once it has sent them. -/
def Port.header (x : Port) (gtype : Nat) (seq : BitVec 12) (map : Nat) : BitVec 112 × Port :=
  let v := x.nextCvc
  let n := (x.freed.at? v).getD 0
  (groupHdr gtype seq x.lastGood x.nakDue v n map, { x with cvc := v, reported := x.reported.putN v n, nakDue := false })

/-- Receive buffer of a channel in slots (R268). -/
def vcSize (v : Nat) : Nat := if v = 2 then 2048 else 64

/-- A slot may be sent on a channel (R268). -/
def Port.mayCredit (x : Port) (v : Nat) : Bool :=
  decide (((x.sent.at? v).getD 0 - (x.credits.at? v).getD 0).toNat < vcSize v)

/-- A slot is counted on a channel. -/
def Port.spend (x : Port) (v : Nat) : Port := { x with sent := x.sent.putN v ((x.sent.at? v).getD 0 + 1) }

/-- 64-byte units of an item (R269). -/
def Item.units64 (it : Item) : Nat := ceilDiv (32 + it.data.length) 64

/-- An item of this chip's contexts enters their counts of link units transmitted (Table 5.6, R363). -/
def State.countTx (s : State) (it : Item) : State :=
  let n := it.units64
  (s.itemCtx it).foldl (fun s i => (s.countCtx i 7 n).modCtx i fun c => { c with act := { c.act with lnkTx := c.act.lnkTx + n } }) s

/-- An item for this chip's contexts enters their counts of link units received. -/
def State.countRx (s : State) (it : Item) : State :=
  match s.hdrSlot it.hdr with
  | some i =>
    let n := it.units64
    (s.countCtx i 8 n).modCtx i fun c => { c with act := { c.act with lnkRx := c.act.lnkRx + n } }
  | none => s

/-- The next timed slot, with its transmit time filled in: t1 of a request, t3 of a response (R281). -/
def Port.popTimed (x : Port) (t : Nat) : Option (BitVec 256 × Port) :=
  match x.timed with
  | [] => none
  | c :: rest =>
    let x : Port := { x with timed := rest }
    if cType c = 3 then some (c ||| BitVec.ofNat 256 ((t % 2 ^ 64) <<< 64), { x with tsT1 := some t })
    else if cType c = 4 then some (c ||| BitVec.ofNat 256 ((t % 2 ^ 64) <<< 192), x)
    else some (c, x)

/-- The source whose VC2 item is sent next (R269): in rotation, a local pitch only where its bucket allows the item. -/
def State.pickVc2 (s : State) (p : LPort) : Option (Nat × Item) :=
  let x := s.port p
  let first (src : Nat) : Option (Nat × Item) :=
    match x.vc2.find? fun e => e.1 == src with
    | some (k, it) =>
      if h : k < 16 then
        let b := (s.pit ⟨k, h⟩).tx
        if fld b.live 15 0 = 0 || decide (256 * it.units64 ≤ b.count) then some (k, it) else none
      else some (k, it)
    | none => none
  ((List.range 20).map fun d => (x.vc2Last + 1 + d) % 20).findSome? first

/-- The item at the head of a source leaves its queue, and spends its pitch's tokens. -/
def State.startVc2 (s : State) (p : LPort) (src : Nat) (it : Item) : State :=
  let s := s.modPort p fun x => { x with
    vc2 := x.vc2.eraseP fun e => e.1 == src
    vc2Last := src, txOpen := some { rest := itemSlots it, sent := 0, item := it, forwarded := decide (16 ≤ src) } }
  let s := s.countTx it
  if h : src < 16 then s.modPit ⟨src, h⟩ fun q => { q with tx := q.tx.spend it.units64 } else s

/-- The next slot of the open VC2 item, if it has come and its channel has credit; a cut item ends with CUT (R285). -/
def State.sendVc2 (s : State) (p : LPort) : Option ((Nat × BitVec 256) × State) :=
  let x := s.port p
  match x.txOpen with
  | none => none
  | some o =>
    if !x.mayCredit 2 then none else
    match o.rest with
    | [] => none
    | c :: rest =>
      let x := x.spend 2
      let x : Port := if rest.isEmpty && o.item.due = 0 then { x with txOpen := none, reliable := if o.item.cut then cutSlot :: x.reliable else x.reliable }
        else { x with txOpen := some { o with rest := rest, sent := o.sent + 1 } }
      some ((if o.sent = 0 then 1 else 2, c), (s.modPort p fun _ => x).creditItem o.item 1)

/-- The open VC2 item is inside a segment of 128 slots (R267). -/
def Port.midSegment (x : Port) : Bool := match x.txOpen with | some o => decide (o.sent % 128 ≠ 0) | none => false

/-- What a port puts into the next slot of the group that it forms (R267 to R269, R280); none leaves the slot empty. -/
def State.nextSlot (s : State) (p : LPort) (t : Nat) : Option ((Nat × BitVec 256) × State) :=
  let x := s.port p
  match x.popTimed t with
  | some (c, y) => some ((3, c), s.modPort p fun _ => y)
  | none =>
    if x.midSegment then s.sendVc2 p else
    match x.reliable with
    | c :: rest => some ((3, c), s.modPort p fun x => { x with reliable := rest })
    | [] =>
      match if x.mayCredit 1 then x.vc1 else [] with
      | it :: rest => some ((1, it.hdr.pack), ((s.modPort p fun x => { x.spend 1 with vc1 := rest }).creditItem it 1).countTx it)
      | [] =>
        match if x.mayCredit 0 then x.vc0 else [] with
        | it :: rest => some ((1, it.hdr.pack), ((s.modPort p fun x => { x.spend 0 with vc0 := rest }).creditItem it 1).countTx it)
        | [] =>
          if x.txOpen.isSome then s.sendVc2 p
          else if !x.mayCredit 2 then none
          else match s.pickVc2 p with
            | some (src, it) => (s.startVc2 p src it).sendVc2 p
            | none => none

/-- The slots of the next group, and the state once they are taken; n slots are still free. -/
def State.fillSlots (s : State) (p : LPort) (t : Nat) : Nat → List (Nat × BitVec 256) × State
  | 0 => ([], s)
  | n + 1 =>
    match s.nextSlot p t with
    | none => ([], s)
    | some (c, s) =>
      let r := s.fillSlots p t n
      (c :: r.1, r.2)

/-- The timed slots that are due, for a group that carries nothing else. -/
def State.fillTimed (s : State) (p : LPort) (t : Nat) : Nat → List (Nat × BitVec 256) × State
  | 0 => ([], s)
  | n + 1 =>
    match (s.port p).popTimed t with
    | none => ([], s)
    | some (c, y) =>
      let r := (s.modPort p fun _ => y).fillTimed p t n
      ((3, c) :: r.1, r.2)

/-- GOOD of this end's TRAIN record: the lanes that are locked and deskewed (Table 12.9). They are deskewed once ALIGN has found the
codeword boundary (R274). -/
def Port.good (x : Port) : BitVec 9 := if 3 ≤ x.state || (x.state = 2 && 4 ≤ x.aligned) then x.rxlock else 0

/-- The TRAIN record of this end (Table 12.9). -/
def State.trainRecord (s : State) (p : LPort) : BitVec 256 :=
  let x := s.port p
  let r := x.trainRx.getD (BitVec.ofNat 256 (0xFF <<< 8))
  BitVec.ofNat 256 (1 ||| s.mgmt.chip <<< 8 ||| x.loop <<< 16 ||| b2n x.degradeOk <<< 18 ||| x.trainCount.toNat <<< 24 ||| x.laneMap.toNat <<< 32 |||
    x.good.toNat <<< 64 ||| fld r 15 8 <<< 96 ||| fld r 17 16 <<< 104 ||| fld r 18 18 <<< 106 ||| fld r 63 32 <<< 128 ||| fld r 72 64 <<< 160)

/-- A TRAIN group (R275). -/
def State.trainGroup (s : State) (p : LPort) : Group :=
  mkGroup (groupHdr 2 0 0 false 0 0 3) (s.trainRecord p :: List.replicate 15 0)

/-- A group goes out on a port (R264, R265). In near loop it returns to the receive path, and LKp_TXD carries a TRAIN group in
its place (R279); TRAIN groups are counted (Table 12.9). -/
def State.putGroup (s : State) (p : LPort) (g : Group) : State :=
  let line := if (s.port p).loop = 1 then s.trainGroup p else g
  (s.modPort p fun x => { (x.encode (groupSyms line)) with
    txGroups := x.txGroups + 1, out := some line, trainCount := if gType line = 2 then x.trainCount + 1 else x.trainCount
    loopBack := if x.loop = 1 then x.loopBack ++ [((x.txGroups * 4240) % 5140, g)] else [] }).count (0x1900 + 64 * p.val) 1

/-- A group of slots is sent as DATA: it takes the next SEQ and enters the replay buffer (R265, R273, R367). -/
def State.sendData (s : State) (p : LPort) (l : List (Nat × BitVec 256)) (t : Nat) : State :=
  let l := fill16 l
  let x := s.port p
  let h := x.header 0 x.seq (slotMap l)
  let g := mkGroup h.1 (l.map (·.2))
  let s := s.modPort p fun _ => { h.2 with
    seq := x.seq + 1, replay := x.replay ++ [(x.seq, g)], ackAt := if x.replay.isEmpty then s.clk.time else x.ackAt }
  let s := s.putGroup p g
  if s.trc.linksamp ≠ 0 && x.seq.toNat % 2 ^ s.trc.linksamp = 0 then
    s.traceAt (t / 16) 9 0x7F (oLink p) (bodyAt [(8, leBytes 2 x.seq.toNat), (10, [BitVec.ofNat 8 (t % 16)])])
  else s

/-- A group of slots is sent as IDLE. -/
def State.sendIdle (s : State) (p : LPort) (l : List (Nat × BitVec 256)) : State :=
  let l := fill16 l
  let h := (s.port p).header 1 0 (slotMap l)
  (s.modPort p fun _ => h.2).putGroup p (mkGroup h.1 (l.map (·.2)))

/-- A group of the replay buffer is sent again: its timed slots empty, its header fields of the moment (R266, R280). -/
def State.sendAgain (s : State) (p : LPort) (g : Group) : State :=
  let l := (kindSlots g).map fun c => if c.1 = 3 && timedSlot c.2 then (0, 0) else c
  let h := (s.port p).header 0 (gSeq g) (slotMap l)
  (s.modPort p fun _ => { h.2 with resend := h.2.resend.drop 1 }).putGroup p (mkGroup h.1 (l.map (·.2)))

/-- A TRAIN group is sent. -/
def State.sendTrain (s : State) (p : LPort) : State := s.putGroup p (s.trainGroup p)

/-- One bit of PRBS31 (ITU-T O.150: stages 28 and 31 added, output inverted), and the register after it (log entry 30). -/
def prbsBit (r : BitVec 31) : Bool × BitVec 31 :=
  let b := r.getLsbD 30 ^^ r.getLsbD 27
  (!b, (r <<< 1) ||| BitVec.ofNat 31 (b2n b))

/-- n bits of PRBS31 as a number, the first lowest, and the register after them. -/
def prbsBits (r : BitVec 31) : Nat → Nat × BitVec 31
  | 0 => (0, r)
  | n + 1 =>
    let h := prbsBit r
    let t := prbsBits h.2 n
    (b2n h.1 + 2 * t.1, t.2)

/-- k slots of PRBS31. -/
def prbsSlots (r : BitVec 31) : Nat → List (BitVec 256) × BitVec 31
  | 0 => ([], r)
  | k + 1 =>
    let h := prbsBits r 256
    let t := prbsSlots h.2 k
    (BitVec.ofNat 256 h.1 :: t.1, t.2)

/-- A DATA group of loop test (R279). -/
def State.sendPrbs (s : State) (p : LPort) (t : Nat) : State :=
  let r := prbsSlots (s.port p).prbs 16
  (s.modPort p fun x => { x with prbs := r.2 }).sendData p (r.1.map fun c => (0, c)) t

/-- A replay starts from the oldest group that is kept (R273); a port whose replays reach the limit without an advance of
ACK retrains. -/
def State.startReplay (s : State) (p : LPort) (nak : Option (BitVec 12)) : State :=
  let x := s.port p
  if x.replay.isEmpty then s
  else if max 1 (fld x.replayReg 19 16) ≤ x.idleReplays then (s.modPort p fun x => { x with idleReplays := 0, resend := x.replay.map (·.1) }).retrain p
  else
    let s := (s.modPort p fun x => { x with
      resend := x.replay.map (·.1), nakAck := nak, idleReplays := x.idleReplays + 1, replays := x.replays + 1, ackAt := s.clk.time }).count (0x1905 + 64 * p.val) 1
    s.hang (oLink p) 0 0x52 0x7F (s.port p).eventData

/-- The reliable slots that are due, for a DATA group that can hold nothing else (R280). -/
def State.fillReliable (s : State) (p : LPort) (n : Nat) : List (Nat × BitVec 256) × State :=
  (((s.port p).reliable.take n).map fun c => (3, c), s.modPort p fun x => { x with reliable := x.reliable.drop n })

/-- The group that an UP port sends: a replayed one, DATA, or IDLE (R266, R273, R280, R355). -/
def State.sendUp (s : State) (p : LPort) (t : Nat) : State :=
  let x := s.port p
  match x.resend.head?.bind fun q => x.replay.find? fun e => e.1 == q with
  | some e => s.sendAgain p e.2
  | none =>
    if s.dbg.stopped || decide (256 ≤ x.replay.length) then
      let r := s.fillTimed p t 16
      r.2.sendIdle p r.1
    else
      let r := s.fillSlots p t 16
      if !(r.1.all fun c => c.1 = 3 && timedSlot c.2) then r.2.sendData p r.1 t
      else if (r.2.port p).reliable.isEmpty then r.2.sendIdle p r.1
      else
        let q := r.2.fillReliable p (16 - r.1.length)
        q.2.sendData p (r.1 ++ q.1) t

/-- GROUP_TRANSMIT: the port sends its next group, whose first symbol enters the PHY at the present time plus frac/16 ns. -/
def State.groupTransmit (s : State) (p : LPort) (frac : BitVec 4) : State :=
  if !s.linkOn then s else
  let x := s.port p
  let t := 16 * s.clk.time + frac.toNat + fld x.phylat 31 16
  match x.state with
  | 0 => s
  | 1 => s.sendTrain p
  | 2 => s.sendTrain p
  | 3 => s.sendTrain p
  | 4 =>
    let r := s.fillTimed p t 16
    r.2.sendIdle p r.1
  | 5 => s.sendUp p t
  | _ =>
    match x.resend.head?.bind fun q => x.replay.find? fun e => e.1 == q with
    | some e => s.sendAgain p e.2
    | none => if decide (256 ≤ x.replay.length) then s.sendIdle p [] else s.sendPrbs p t

/-- REPLAY_TIMEOUT (R273): ACK has not advanced for LNK.REPLAY.TIMEOUT ns. -/
def State.replayTimeout (s : State) (p : LPort) : State :=
  let x := s.port p
  if !s.linkOn || x.state < 5 || x.replay.isEmpty then s
  else (s.advanceTo (x.ackAt + fld x.replayReg 15 0)).startReplay p none

def execGroupTransmit (port : LPort) (frac : BitVec 4) (s : State) : Host.Outcome State Fault Refusal := s.run fun s => s.groupTransmit port frac
def execReplayTimeout (port : LPort) (s : State) : Host.Outcome State Fault Refusal := s.run fun s => s.replayTimeout port

end Sys2Proof.Machine
end

