-- ==== Sys2Proof/Machine/LinkRx.lean ====
section
/-! DEFINITION. Sys2Proof/Machine/LinkRx.lean: what a link port receives (R268, R270, R272, R279, R280, R285), its training
(R274, R275), lane exchange (R278), time synchronisation (R281), Bell markers (R40 to R43, R282, R387) and the votes and
decisions of linked contexts (R44, R45). -/

namespace Sys2Proof.Machine

/-! ### Delivery (R267, R268, R270, R285) -/

/-- An item for this chip has been received whole: to the mesh. -/
def State.takeWhole (s : State) (p : LPort) (it : Item) : State := (s.countRx it).sendItem (16 + p.val) it

/-- An item-start slot: a malformed header is discarded (R6). An item for this chip is passed to the mesh slot by slot, so that its
slots are free at once; a forwarded one begins on the port that its route names, and its slots are free once that port
has sent them (R268, R270). -/
def State.itemStart (s : State) (p : LPort) (c : BitVec 256) : State :=
  let h := MsgHdr.unpack c
  let more := if vcOf h.kind = 2 then 2 * h.units else 0
  let it : Item := { hdr := h, port := some p }
  if !MsgHdr.clean c then s.creditSlots p (vcOf h.kind) 1
  else if h.dstChip = s.mgmt.chip then
    let s := s.creditSlots p (vcOf h.kind) 1
    if more = 0 then s.takeWhole p it else s.modPort p fun x => { x with rxOpen := some { item := it, left := more, fwd := none } }
  else
    match s.routeTo (16 + p.val) h.dstChip with
    | some q =>
      let s := s.queueItem q (16 + p.val) { it with due := more }
      if more = 0 then s else s.modPort p fun x => { x with rxOpen := some { item := it, left := more, fwd := some q } }
    | none =>
      let s := (s.creditSlots p (vcOf h.kind) 1).dropItem (16 + p.val) it
      if more = 0 then s else s.modPort p fun x => { x with rxOpen := some { item := it, left := more, fwd := none } }

/-- The item that a port forwards, as the port q that it goes to holds it, changed: in its queue, or begun. -/
def Port.modForward (x : Port) (p : LPort) (f : Item → Item) (g : List (BitVec 256) → List (BitVec 256)) : Port :=
  match x.txOpen with
  | some o =>
    if o.item.port = some p && decide (0 < o.item.due) then { x with txOpen := some { o with item := f o.item, rest := g o.rest } }
    else { x with vc2 := x.vc2.map fun e => if e.2.port = some p && decide (0 < e.2.due) then (e.1, f e.2) else e }
  | none => { x with vc2 := x.vc2.map fun e => if e.2.port = some p && decide (0 < e.2.due) then (e.1, f e.2) else e }

/-- A continuation slot: 32 bytes of the open VC2 item. -/
def State.itemMore (s : State) (p : LPort) (c : BitVec 256) : State :=
  match (s.port p).rxOpen with
  | none => s.creditSlots p 2 1
  | some r =>
    let add (it : Item) : Item := { it with data := it.data ++ leBytes 32 c.toNat }
    let last := decide (r.left ≤ 1)
    let next : Option RxOpen := if last then none else some { r with left := r.left - 1 }
    match r.fwd with
    | some q =>
      (s.modPort p fun x => { x with rxOpen := next }).modPort q fun x =>
        x.modForward p (fun it => { add it with due := it.due - 1 }) fun l => l ++ [c]
    | none =>
      let s := s.creditSlots p 2 1
      if r.item.hdr.dstChip ≠ s.mgmt.chip then s.modPort p fun x => { x with rxOpen := next }
      else if last then (s.modPort p fun x => { x with rxOpen := none }).takeWhole p (add r.item)
      else s.modPort p fun x => { x with rxOpen := some { r with item := add r.item, left := r.left - 1 } }

/-- A link-control slot waits for its row. -/
def State.ctlArrive (s : State) (p : LPort) (c : BitVec 256) (t : Nat) : State :=
  s.modPort p fun x => { x with ctlIn := x.ctlIn ++ [{ slot := c, t := t }] }

/-- A reliable link-control slot (Table 12.5): one with another chip's number goes on to the port of its route. -/
def State.ctlReliable (s : State) (p : LPort) (c : BitVec 256) (t : Nat) : State :=
  match cType c with
  | 5 => s.ctlArrive p c t
  | _ => if fld c 15 8 = s.mgmt.chip then s.ctlArrive p c t else s.sendCtl (16 + p.val) (fld c 15 8) c

/-- A slot is delivered. Slots are held while the block is stopped-now (R355), and behind a CUT that waits for its row. -/
def State.deliver (s : State) (p : LPort) (c : Nat × BitVec 256) (t : Nat) : State :=
  if c.1 = 0 || badCtl c || (c.1 = 3 && timedSlot c.2) then s
  else if s.dbg.stopped || !(s.port p).rxHeld.isEmpty || (c.1 = 3 && cType c.2 == 8) then
    s.modPort p fun x => { x with rxHeld := x.rxHeld ++ [c] }
  else if c.1 = 1 then s.itemStart p c.2
  else if c.1 = 2 then s.itemMore p c.2
  else s.ctlReliable p c.2 t

/-- The slots held by a port are delivered, up to the next CUT. -/
def State.drainHeld (s : State) (p : LPort) (t : Nat) : State :=
  let l := (s.port p).rxHeld
  (s.modPort p fun x => { x with rxHeld := [] }) |> l.foldl fun s c => s.deliver p c t

/-- A begun item that has been cut and has no slot left to send ends with CUT. -/
def Port.endCut (x : Port) : Port :=
  match x.txOpen with
  | some o => if o.item.cut && o.rest.isEmpty then { x with txOpen := none, reliable := cutSlot :: x.reliable } else x
  | none => x

/-- CUT (R285): the open VC2 item ends; what came of it is passed on as cut. -/
def State.cut (s : State) (p : LPort) : State :=
  if !s.linkOn || s.dbg.stopped then s else
  match (s.port p).rxHeld with
  | c :: rest =>
    if !(c.1 = 3 && cType c.2 == 8) then s else
    let s := s.modPort p fun x => { x with rxHeld := rest }
    let s := match (s.port p).rxOpen with
      | some r =>
        let s := s.modPort p fun x => { x with rxOpen := none }
        match r.fwd with
        | some q => s.modPort q fun x => (x.modForward p (fun it => { it with cut := true, due := 0 }) id).endCut
        | none => if r.item.hdr.dstChip = s.mgmt.chip then s.takeWhole p { r.item with cut := true } else s
      | none => s
    s.drainHeld p (16 * s.clk.time)
  | [] => s

/-! ### Reception (R272, R273) -/

/-- The ACK of a good group frees what it covers (R273). -/
def State.applyAck (s : State) (p : LPort) (ack : BitVec 12) : State :=
  let x := s.port p
  if !(x.replay.any fun e => e.1 == ack) then s else
  let rest := (x.replay.dropWhile fun e => e.1 != ack).drop 1
  s.modPort p fun x => { x with
    replay := rest, resend := x.resend.filter fun q => rest.any fun e => e.1 == q
    idleReplays := 0, ackAt := s.clk.time }

/-- ACK, NAK, CVC and CREDITS of a good DATA or IDLE group. -/
def State.applyHeader (s : State) (p : LPort) (g : Group) : State :=
  let ack : BitVec 12 := g.hdr.extractLsb' 84 12
  let s := (s.applyAck p ack).modPort p fun x => { x with credits := x.credits.putN (fld g.hdr 81 80) (g.hdr.extractLsb' 68 12) }
  let x := s.port p
  if bit g.hdr 83 && !(x.nakAck == some ack && !x.resend.isEmpty) then s.startReplay p (some ack) else s

/-- The reserved fields of a TRAIN record are zero, and its LOOP fields hold no reserved encoding (R6, Table 12.9). -/
def trainClean (r : BitVec 256) : Bool :=
  fld r 23 19 = 0 && fld r 95 73 = 0 && fld r 111 107 = 0 && fld r 127 112 = 0 && fld r 255 169 = 0 && fld r 17 16 ≠ 3 && fld r 105 104 ≠ 3

/-- A TRAIN record is received (R274, R275). One of another VERSION is ignored, and so is a malformed one (R6). -/
def State.trainReceive (s : State) (p : LPort) (r : BitVec 256) : State :=
  if fld r 7 0 ≠ 1 || !trainClean r then s else
  let x := s.port p
  let own := s.trainRecord p
  let acks := fld r 103 96 = s.mgmt.chip && fld r 105 104 = x.loop && fld r 17 16 = x.loop && bit r 106 == x.degradeOk &&
    fld r 159 128 = fld own 63 32 && fld r 168 160 = fld own 72 64
  let s := s.modPort p fun x => { x with trainRx := some r, trainAcks := if x.state = 3 && acks then x.trainAcks + 1 else x.trainAcks }
  if x.state = 3 && fld r 63 32 ≠ x.laneMap.toNat && decide (fld r 15 8 < s.mgmt.chip) then
    s.modPort p fun x => { x with laneMap := BitVec.ofNat 32 (fld r 63 32), trainAcks := 0 }
  else s

/-- What the decoder makes of the codewords that a group overlaps: the corrections of each; none for one that is
uncorrectable (R264). -/
def decodedWords (rx : RxGroup) : List (Option (List (Nat × Sym))) := rx.errors.map rsCorrect

/-- Those of the codewords of a group that begin in it, so that each codeword is counted with one group. -/
def begunIn {α : Type} (rx : RxGroup) (l : List α) : List α := if rx.place = 0 then l else l.drop 1

/-- The bytes of a group as received, once the decoder has corrected what it can: what is still wrong changes its bits. -/
def receivedGroup (rx : RxGroup) : Group :=
  let left := (rx.errors.zip (decodedWords rx)).zipIdx.flatMap fun e =>
    match e.1.2 with
    | some fix => (rsLeft e.1.1 fix).filterMap fun x =>
        if x.1 < 514 && rx.place ≤ 5140 * e.2 + 10 * x.1 && 5140 * e.2 + 10 * x.1 < rx.place + 4240 then
          some ((5140 * e.2 + 10 * x.1 - rx.place), x.2) else none
    | none => []
  if left.isEmpty then rx.g else
  let v := left.foldl (fun v x => v ^^^ (x.2.toNat <<< x.1)) (groupNumber rx.g)
  { hdr := BitVec.ofNat 112 v, slots := (List.range 16).map fun n => BitVec.ofNat 256 (v >>> (112 + 256 * n)), crc := BitVec.ofNat 32 (v >>> 4208) }

/-- The codewords that begin in a group are counted: uncorrectable ones, corrected ones, and the symbols corrected by
physical lane (R341, R362). In ALIGN, those of zero syndrome in a row are counted too (R274). -/
def State.countWords (s : State) (p : LPort) (rx : RxGroup) : State :=
  (begunIn rx (decodedWords rx)).foldl (fun s w =>
    let clean := match w with | some l => l.isEmpty | none => false
    let s := if (s.port p).state = 2 then s.modPort p fun x => { x with aligned := if clean || decide (4 ≤ x.aligned) then x.aligned + 1 else 0 } else s
    match w with
    | none => s.count (0x1904 + 64 * p.val) 1
    | some [] => s
    | some l =>
      let s := s.count (0x1903 + 64 * p.val) 1
      let x := s.port p
      (List.range 9).foldl (fun s lane => s.countLane p lane (l.filter fun e => x.laneOf e.1 == lane).length) s) s

/-- PRBS31 errors of a group in loop test, by the physical lane of each bit (R279): the slots against the pattern that is due. The
check follows the transmitter from its state at the start, and goes on with each group received in order; a bad group that
names the next SEQ is compared and does not move it (DESIGN CHOICE, log entry 80). -/
def State.checkPrbs (s : State) (p : LPort) (g : Group) (place : Nat) (good : Bool) : State :=
  let x := s.port p
  if x.state ≠ 6 || gType g ≠ 0 || gSeq g ≠ x.lastGood + 1 then s else
  let r := prbsSlots x.prbsRx 16
  let s := if good then s.modPort p fun x => { x with prbsRx := r.2 } else s
  if g.slots = r.1 then s else
  let wrong := (g.slots.zip r.1).zipIdx.flatMap fun e =>
    ((List.range 256).filter fun b => e.1.1.getLsbD b != e.1.2.getLsbD b).map fun b => x.laneOf ((place + 112 + 256 * e.2 + b) / 10 % 514)
  (List.range 9).foldl (fun s lane =>
    let n := (wrong.filter (· == lane)).length
    if n = 0 then s else s.count (0x1920 + 64 * p.val + lane) n) s

/-- A DATA group is delivered in order, or discarded (R272). -/
def State.receiveData (s : State) (p : LPort) (g : Group) (t : Nat) : State :=
  let x := s.port p
  if gSeq g ≠ x.lastGood + 1 then s else
  let s := s.modPort p fun x => { x with lastGood := gSeq g, nakSent := false }
  let s := if s.trc.linksamp ≠ 0 && (gSeq g).toNat % 2 ^ s.trc.linksamp = 0 then
      s.traceAt (t / 16) 10 0x7F (oLink p) (bodyAt [(8, leBytes 2 (gSeq g).toNat), (10, [BitVec.ofNat 8 (t % 16)])]) else s
  (kindSlots g).foldl (fun s c => s.deliver p c t) s

/-- The timed slots of a good group wait for their rows, whether or not its other slots are delivered (R280). -/
def State.receiveTimed (s : State) (p : LPort) (g : Group) (t : Nat) : State :=
  (kindSlots g).foldl (fun s c =>
    if badCtl c then s.count (0x1908 + 64 * p.val) 1 else if c.1 = 3 && timedSlot c.2 then s.ctlArrive p c.2 t else s) s

/-- A good group (R272, R280), in whatever state its port stands: its peer may be UP or in TSYNC already. -/
def State.receiveGood (s : State) (p : LPort) (g : Group) (t : Nat) : State :=
  let s := s.count (0x1901 + 64 * p.val) 1
  if gType g = 2 then (if (s.port p).state ≤ 3 then s.trainReceive p (g.slots.headD 0) else s)
  else if gType g > 2 then s
  else
    let s := (s.applyHeader p g).receiveTimed p g t
    if gType g = 0 then s.receiveData p g t else s

/-- A bad group (R272): the NAK is asked for once. Before ALIGN has found the codeword boundary no group is told from another, and
none is asked for (DESIGN CHOICE, log entry 84). -/
def State.receiveBad (s : State) (p : LPort) : State :=
  let s := s.count (0x1902 + 64 * p.val) 1
  let y := s.port p
  if y.state < 3 || y.nakSent then s
  else (s.modPort p fun x => { x with nakSent := true, nakDue := true }).hang (oLink p) 0 0x51 0x7F y.eventData

/-- A group is bad: a codeword that it overlaps is uncorrectable, or its CRC does not match (R264, R272). -/
def badGroup (rx : RxGroup) : Bool :=
  (decodedWords rx).any (·.isNone) || crc32 (groupBytes (receivedGroup rx).hdr (receivedGroup rx).slots) != (receivedGroup rx).crc

/-- LNK.PHYLAT comes into force at a time-sync exchange (Table 19.4). -/
def Port.latch (x : Port) : Port := { x with phylat := x.phylatReg }

/-- A good group brings a TSYNC_REQ, with which the peer starts an exchange (R281). -/
def asksTime (g : Group) : Bool := (kindSlots g).any fun c => c.1 = 3 && cType c.2 = 3 && ctlClean c.2

/-- GROUP_RECEIVE (R272). LNK.PHYLAT comes into force with the exchange that a group starts, before it is stamped. In near loop the group is the one that the port sent itself, as it was sent (R279). -/
def State.groupReceive (s : State) (p : LPort) (rx : RxGroup) : State :=
  let x := s.port p
  if !s.linkOn || x.state = 0 then s else
  let (rx, s) : Option RxGroup × State :=
    if x.loop = 1 then
      match x.loopBack with
      | (n, g) :: rest =>
        (some { rx with g := g, place := n, errors := if n + 4240 ≤ 5140 then [[]] else [[], []] }, s.modPort p fun x => { x with loopBack := rest })
      | [] => (none, s)
    else (some rx, s)
  match rx with
  | none => s
  | some rx =>
    let s := if !badGroup rx && asksTime (receivedGroup rx) then s.modPort p Port.latch else s
    let t := 16 * s.clk.time + rx.frac.toNat - fld (s.port p).phylat 15 0
    let s := s.countWords p rx
    let s := s.checkPrbs p (receivedGroup rx) rx.place (!badGroup rx)
    if badGroup rx then s.receiveBad p else s.receiveGood p (receivedGroup rx) t

/-! ### Training (R274) -/

/-- Lanes of a set. -/
def laneCount (v : BitVec 9) : Nat := ((List.range 9).filter fun l => v.getLsbD l).length

/-- The lowest n lanes of a set. -/
def lowLanes (v : BitVec 9) (n : Nat) : BitVec 9 := BitVec.ofNat 9 (natSum ((((List.range 9).filter fun l => v.getLsbD l).take n).map fun l => 2 ^ l))

/-- EXCHANGE has ended: its checks in their order (R274). -/
def State.exchangeEnd (s : State) (p : LPort) (r : BitVec 256) : State :=
  let x := s.port p
  let chip := fld r 15 8
  if chip = 0xFF || (x.loop = 0 && chip = s.mgmt.chip) then s.trainFail p (some 0x7007)
  else if x.loop ≠ 0 && chip ≠ s.mgmt.chip then s.trainFail p none
  else
    let both : BitVec 9 := x.rxlock &&& r.extractLsb' 64 9
    let enter (w : Nat) (used : BitVec 9) (s : State) : State :=
      (s.modPort p fun x => { x with width := w, peer := chip, used := used, tsNext := s.clk.time }).setPort p 4
    if x.mapped.all fun l => both.getLsbD l then enter 8 (BitVec.ofNat 9 (natSum (x.mapped.map fun l => 2 ^ l))) s
    else if x.degradeOk && bit r 18 && decide (4 ≤ laneCount both) then (enter 4 (lowLanes both 4) s).notePort p 0x7005
    else s.trainFail p none

/-- TRAINING_ADVANCE: the end condition of the present state is met (Table 12.4). -/
def State.trainingAdvance (s : State) (p : LPort) : State :=
  let x := s.port p
  if !s.linkOn then s else
  match x.state with
  | 1 => if (x.mapped.all fun l => x.rxlock.getLsbD l) || (x.degradeOk && decide (4 ≤ laneCount x.rxlock)) then s.setPort p 2 else s
  | 2 => if 4 ≤ x.aligned then s.setPort p 3 else s
  | 3 => if 8 ≤ x.trainAcks then (match x.trainRx with | some r => s.exchangeEnd p r | none => s) else s
  | 4 => if 16 ≤ x.tsCount then (s.modPort p fun x => { x with retraining := false, ackAt := s.clk.time }).setPort p (if x.loop = 0 then 5 else 6) else s
  | _ => s

/-- The limit of a training state in ns. -/
def trainLimit (st : Nat) : Nat := match st with | 1 => 10000 | 2 => 20000 | 3 => 10000 | _ => 40000

/-- TRAINING_TIMEOUT: a training state exceeds its limit. -/
def State.trainingTimeout (s : State) (p : LPort) : State :=
  let x := s.port p
  if !s.linkOn || x.state = 0 || x.state ≥ 5 then s
  else (s.advanceTo (x.since + trainLimit x.state)).trainFail p (some 0x7003)

/-- TRAINING_RETRY: 1 ms after a failure, EN still 1. -/
def State.trainingRetry (s : State) (p : LPort) : State :=
  let x := s.port p
  if !s.linkOn || !x.failed || !x.en || x.state ≠ 0 then s else (s.advanceTo (x.since + 1000000)).enterLock p

/-- RXLOCK_CHANGE: a lane's receiver gains or loses lock (R276, R278). -/
def State.rxlockChange (s : State) (p : LPort) (lane : Fin 9) (level : Bool) : State :=
  if !s.linkOn then s else
  let x := s.port p
  let lost := !level && x.rxlock.getLsbD lane.val
  let s := s.modPort p fun x => { x with rxlock := setBit x.rxlock lane.val level }
  if !lost || x.state < 4 || !(x.mapped.contains lane.val || x.used.getLsbD lane.val) then s
  else if (match x.swap with | some w => w.lane == lane.val | none => false) then s
  else if x.state = 5 && s.spareFree p then s.startSwap p lane.val
  else s.retrain p

/-! ### Lane exchange -/

/-- The first slot of a kind that waits at a port, and the port without it. -/
def Port.takeCtl (x : Port) (ctype : Nat) : Option (CtlIn × Port) :=
  match x.ctlIn.find? fun c => cType c.slot == ctype with
  | some c => some (c, { x with ctlIn := x.ctlIn.eraseP fun d => cType d.slot == ctype })
  | none => none

/-- A slot of a kind that waits at a port is taken. -/
def State.takeCtl (s : State) (p : LPort) (ctype : Nat) : Option (CtlIn × State) :=
  if !s.linkOn then none else
  match (s.port p).takeCtl ctype with
  | some (c, x) => some (c, s.modPort p fun _ => x)
  | none => none

/-- LANE_SWAP (R278): a request is answered, and names the codeword of the receive direction; so does an answer. -/
def State.laneSwap (s : State) (p : LPort) : State :=
  match s.takeCtl p 5 with
  | none => s
  | some (c, s) =>
    let lane := fld c.slot 15 8
    let at' := fld c.slot 95 32
    let x := s.port p
    match x.swap with
    | some w => if w.lane = lane && w.rxAt.isNone then s.modPort p fun x => { x with swap := some { w with rxAt := some at' } } else s
    | none =>
      if fld c.slot 23 16 ≠ 0 || !x.mapped.contains lane then s else
      s.modPort p fun x => { x with
        swap := some { lane := lane, txAt := x.announced, rxAt := some at' }, reliable := x.reliable ++ [laneSwapSlot lane 1 x.announced] }

/-- LANE_SWAP_EFFECT: a direction of the port moves the logical lane to the spare. -/
def State.laneSwapEffect (s : State) (p : LPort) (tx : Bool) : State :=
  if !s.linkOn then s else
  match (s.port p).swap with
  | none => s
  | some w =>
    if tx then
      if w.txDone then s
      else (s.modPort p fun x => { x with swap := some { w with txDone := true }, txGroups := max x.txGroups (ceilDiv (w.txAt * 5140) 4240) }).endSwap p
    else if w.rxDone || w.rxAt.isNone then s
    else (s.modPort p fun x => { x with swap := some { w with rxDone := true } }).endSwap p

/-! ### Time synchronisation (R281) -/

/-- The predicted offset, peer time less own time, in 1/16 ns, at a local time in 1/16 ns. -/
def Port.predict (x : Port) (t : Int) : Int :=
  match x.tsync with
  | [] => 0
  | (o, _, t0) :: _ =>
    match x.tsync.getLast? with
    | some (o', _, t') => if t0 = t' then o else o + (o - o') * (t - t0) / (t0 - t')
    | none => o

/-- A result lies within 2 ns of the prediction; a first result has none. -/
def Port.predicted (x : Port) (off t : Int) : Bool :=
  match x.tsync with
  | [] => true
  | (o, _, t0) :: _ =>
    match x.tsync.getLast? with
    | some (o', _, t') =>
      if t0 = t' then decide ((off - o).natAbs ≤ 32)
      else decide (((off - o) * (t0 - t') - (o - o') * (t - t0)).natAbs ≤ 32 * (t0 - t').natAbs)
    | none => true

/-- TSYNC_SEND: a port in TSYNC or UP sends a request every 1,024 ns. -/
def State.tsyncSend (s : State) (p : LPort) : State :=
  let x := s.port p
  if !s.linkOn || !(x.state = 4 || x.state = 5) then s else
  let s := s.advanceTo x.tsNext
  s.modPort p fun x => { x.latch with tsNext := s.clk.time + 1024, timed := x.timed ++ [3] }

/-- TSYNC_REQ: a request is answered. -/
def State.tsyncReq (s : State) (p : LPort) : State :=
  match s.takeCtl p 3 with
  | none => s
  | some (c, s) =>
    let slot : BitVec 256 := BitVec.ofNat 256 (4 ||| fld c.slot 127 64 <<< 64 ||| (c.t % 2 ^ 64) <<< 128)
    s.modPort p fun x => { x with timed := x.timed ++ [slot] }

/-- TSYNC_RSP: the result of an exchange is checked against the prediction. -/
def State.tsyncRsp (s : State) (p : LPort) : State :=
  match s.takeCtl p 4 with
  | none => s
  | some (c, s) =>
    let t1 : Int := fld c.slot 127 64
    let t2 : Int := fld c.slot 191 128
    let t3 : Int := fld c.slot 255 192
    let t4 : Int := c.t
    let off := ((t2 - t1) - (t4 - t3)) / 2
    let delay := ((t2 - t1) + (t4 - t3)) / 2
    let x := s.port p
    if x.predicted off t4 then
      s.modPort p fun x => { x with tsync := ((off, delay, t4) :: x.tsync).take 8, tsCount := x.tsCount + 1, tsDiscards := 0, tsT1 := none }
    else
      let s := (s.modPort p fun x => { x with tsDiscards := x.tsDiscards + 1, tsT1 := none }).notePort p 0x7008
      if 4 ≤ (s.port p).tsDiscards then s.retrain p else s

/-! ### Bell markers (R40 to R43, R282) -/

/-- The fields of a marker: hops, stop, master, period, Bell, master time-stamp, cumulative offset. -/
structure Marker where
  hops : Nat
  stop : Bool
  master : Nat
  period : Nat
  bell : W64
  ts : Nat
  cum : Int
deriving DecidableEq, Repr

/-- A marker read from its slot (Table 12.6). -/
def readMarker (c : BitVec 256) : Marker :=
  { hops := fld c 11 8, stop := bit c 12, master := fld c 23 16, period := fld c 58 32, bell := c.extractLsb' 64 64, ts := fld c 191 128
    cum := signedN 64 (fld c 255 192) }

/-- This chip's offset to the master, own time less master time in 1/16 ns. -/
def State.masterOffset (s : State) (p : LPort) (m : Marker) : Int := m.cum - (s.port p).predict (16 * s.clk.time)

/-- The first local time, in ns, at or after a marker's time-stamp. -/
def markerTime (m : Marker) (off : Int) : Nat := ceilDiv (16 * (m.ts : Int) + off).toNat 16

/-- A marker goes on at once to the ports of BELL_FWD but the one it came on, for 8 hops at most. -/
def State.forwardMarker (s : State) (p : LPort) (ctype : Nat) (m : Marker) (off : Int) : State :=
  if m.hops < 8 then s.sendMarker (markerSlot ctype (m.hops + 1) m.stop m.master m.period m.bell m.ts off) (some p) else s

/-- BELL_MARKER: the marker of the next Bell. -/
def State.bellMarker (s : State) (p : LPort) : State :=
  match s.takeCtl p 1 with
  | none => s
  | some (c, s) =>
    if !s.bel.linked || s.bel.upstream ≠ p then s else
    let m := readMarker c.slot
    let off := s.masterOffset p m
    let s := if s.bel.locked && s.bel.running && !s.bel.missSaid && m.bell = s.bel.count + 1 then
        { s with bel := { s.bel with marker := some (markerTime m off, m.period, m.stop), missed := 0 } } else s
    s.forwardMarker p 1 m off

/-- BARRIER: the first copy names Bell 0, and every copy is forwarded. -/
def State.barrier (s : State) (p : LPort) : State :=
  match s.takeCtl p 2 with
  | none => s
  | some (c, s) =>
    if !s.bel.linked || s.bel.upstream ≠ p then s else
    let m := readMarker c.slot
    let off := s.masterOffset p m
    let t := markerTime m off
    let s := if s.bel.en && s.bel.awaiting.isSome && s.bel.barrier.isNone then
        { s with bel := { s.bel with barrier := some (m.ts, t), marker := some (t, m.period, m.stop) } } else s
    s.forwardMarker p 2 m off

/-- Every port of BELL_FWD is UP. -/
def State.bellPortsUp (s : State) : Bool := allPorts.all fun p => !s.mgmt.bellFwd.getLsbD p.val || (s.port p).state = 5

/-- The BARRIER of a master. -/
def State.barrierSlot (s : State) (ts : Nat) : BitVec 256 := markerSlot 2 1 s.bel.stopSent s.mgmt.chip s.bel.periodNext 0 ts 0

/-- BARRIER_SEND: a master sends BARRIER once ZREADY is high and its Bell ports are UP; Bell 0 follows 100 µs later. -/
def State.barrierSend (s : State) : State :=
  if !s.runs || !s.bel.en || !s.bel.master || s.bel.awaiting.isNone || s.bel.barrier.isSome || !s.cfg.zIn || !s.bellPortsUp then s else
  let t := s.clk.time + 100000
  let s : State := { s with bel := { s.bel with
    periodNext := s.bel.periodReg, stopSent := s.bel.stopAt, barrier := some (t, t), barrierAgain := s.clk.time + 1024 } }
  s.sendMarker (s.barrierSlot t) none

/-- BARRIER_REPEAT: the BARRIER again, every 1,024 ns until Bell 0. -/
def State.barrierRepeat (s : State) : State :=
  match s.bel.barrier with
  | none => s
  | some b =>
    if !s.runs || !s.bel.en || !s.bel.master || decide (b.2 ≤ s.bel.barrierAgain) then s else
    let s := s.advanceTo s.bel.barrierAgain
    ({ s with bel := { s.bel with barrierAgain := s.bel.barrierAgain + 1024 } } : State).sendMarker (s.barrierSlot b.1) none

/-- MARKER_MISSED (R43): 1,000 ns before the predicted Bell no marker has come. The second in a row clears LOCKED. -/
def State.markerMissed (s : State) : State :=
  let b := s.bel
  if !s.runs || !b.en || !b.linked || !b.locked || !b.running || b.marker.isSome || b.missSaid then s else
  let s := s.advanceTo (b.last + b.period - 1000)
  ({ s with bel := { s.bel with missSaid := true, markerMissed := true, missed := b.missed + 1, locked := decide (b.missed + 1 < 2) } } : State).note 0x2003

/-- BARRIER_WAIT (R41): no BARRIER has come 100 ms after EN. -/
def State.barrierWait (s : State) : State :=
  match s.bel.awaiting with
  | none => s
  | some t =>
    if !s.runs || !s.bel.en || !s.bel.linked || s.bel.barrier.isSome || s.bel.waitSaid then s else
    let s := s.advanceTo (t + 100000000)
    ({ s with bel := { s.bel with waitSaid := true } } : State).note 0x2014

/-- ZREADY_TIMEOUT (R387): a master has waited 100 ms. -/
def State.zreadyTimeout (s : State) : State :=
  match s.bel.awaiting with
  | none => s
  | some t =>
    if !s.runs || !s.bel.en || !s.bel.master || s.bel.barrier.isSome || s.bel.waitSaid then s else
    let s := s.advanceTo (t + 100000000)
    ({ s with bel := { s.bel with waitSaid := true } } : State).note 0x9009

/-! ### Votes and decisions (R44, R45) -/

/-- The resident linked context that a VOTE or DECISION slot names. -/
def State.linkedCtx (s : State) (c : BitVec 256) : Option Slot :=
  allSlots.find? fun i => (s.ctx i).resident && (s.ctx i).group.linked && (s.ctx i).id.toNat == fld c 63 32

/-- VOTE: the deciding chip holds a vote for the step in service. -/
def State.vote (s : State) (p : LPort) : State :=
  match s.takeCtl p 6 with
  | none => s
  | some (c, s) =>
    match s.linkedCtx c.slot with
    | none => s
    | some i =>
      let k := s.ctx i
      if !k.decides s.mgmt.chip || k.step.toNat ≠ fld c.slot 127 64 then s
      else s.modCtx i fun k => { k with votes := if k.votes.contains (fld c.slot 23 16) then k.votes else k.votes ++ [fld c.slot 23 16] }

/-- The decision is applied to a held member: the flip, or the kill and the deciding chip's policy. An ABORT of a slice that
had completed in time is an overrun like any other: OVERRUN is reported and it counts towards RERUN_LIMIT. R44 says the kill
and the policy alone (DESIGN CHOICE, log entry 75). A slice that is to run again after a decision that came when its pitch had
already admitted at this Bell is considered at the next one (DESIGN CHOICE, log entry 75). -/
def State.applyDecision (s : State) (i : Slot) (abort teardown : Bool) : State := if abort then s.overrun i teardown else s.commit i

/-- DECISION: it waits for the member's own Bell, and is applied to the held slice of its step. A member that has no slice has
nothing to flip or kill, and is free to admit its next one (R44). While the block is stopped-now the Market applies none: it waits
(Table 16.1). -/
def State.decision (s : State) (p : LPort) : State :=
  if s.dbg.stopped then s else
  match s.takeCtl p 7 with
  | none => s
  | some (c, s') =>
    match s'.linkedCtx c.slot with
    | none => s'
    | some i =>
      let k := s'.ctx i
      if k.step.toNat ≠ fld c.slot 127 64 then s'
      else if k.slice.isNone then s'.modCtx i fun k => { k with awaits := false }
      else if k.held.isNone then s
      else ((s'.modCtx i fun k => { k with awaits := false }).applyDecision i (fld c.slot 135 128 = 1) (fld c.slot 143 136 = 1)).settle

/-- COMMIT_IN_DOUBT (R45): no decision BEL.GUARD ns after the member's Bell. -/
def State.commitInDoubt (s : State) (i : Slot) : State :=
  if !s.runs || (s.ctx i).held.isNone || (s.ctx i).inDoubt then s else
  let s := s.advanceTo (s.bel.last + s.bel.guard)
  (s.modCtx i fun k => { k with inDoubt := true }).noteCtx 0x2004 i

def execCut (port : LPort) (s : State) : Host.Outcome State Fault Refusal := s.run fun s => s.cut port
def execGroupReceive (port : LPort) (rx : RxGroup) (s : State) : Host.Outcome State Fault Refusal := s.run fun s => s.groupReceive port rx
def execTrainingAdvance (port : LPort) (s : State) : Host.Outcome State Fault Refusal := s.run fun s => s.trainingAdvance port
def execTrainingTimeout (port : LPort) (s : State) : Host.Outcome State Fault Refusal := s.run fun s => s.trainingTimeout port
def execTrainingRetry (port : LPort) (s : State) : Host.Outcome State Fault Refusal := s.run fun s => s.trainingRetry port
def execRxlockChange (port : LPort) (lane : Fin 9) (level : Bool) (s : State) : Host.Outcome State Fault Refusal := s.run fun s => s.rxlockChange port lane level
def execLaneSwap (port : LPort) (s : State) : Host.Outcome State Fault Refusal := s.run fun s => s.laneSwap port
def execLaneSwapEffect (port : LPort) (tx : Bool) (s : State) : Host.Outcome State Fault Refusal := s.run fun s => s.laneSwapEffect port tx
def execTsyncSend (port : LPort) (s : State) : Host.Outcome State Fault Refusal := s.run fun s => s.tsyncSend port
def execTsyncReq (port : LPort) (s : State) : Host.Outcome State Fault Refusal := s.run fun s => s.tsyncReq port
def execTsyncRsp (port : LPort) (s : State) : Host.Outcome State Fault Refusal := s.run fun s => s.tsyncRsp port
def execBellMarker (port : LPort) (s : State) : Host.Outcome State Fault Refusal := s.run fun s => s.bellMarker port
def execBarrier (port : LPort) (s : State) : Host.Outcome State Fault Refusal := s.run fun s => s.barrier port
def execBarrierSend (s : State) : Host.Outcome State Fault Refusal := s.run fun s => s.barrierSend
def execBarrierRepeat (s : State) : Host.Outcome State Fault Refusal := s.run fun s => s.barrierRepeat
def execMarkerMissed (s : State) : Host.Outcome State Fault Refusal := s.run fun s => s.markerMissed
def execBarrierWait (s : State) : Host.Outcome State Fault Refusal := s.run fun s => s.barrierWait
def execZreadyTimeout (s : State) : Host.Outcome State Fault Refusal := s.run fun s => s.zreadyTimeout
def execVote (port : LPort) (s : State) : Host.Outcome State Fault Refusal := s.run fun s => s.vote port
def execDecision (port : LPort) (s : State) : Host.Outcome State Fault Refusal := s.run fun s => s.decision port
def execCommitInDoubt (i : Slot) (s : State) : Host.Outcome State Fault Refusal := s.run fun s => s.commitInDoubt i

end Sys2Proof.Machine
end

