-- ==== Sys2Proof/Machine/Debug.lean ====
section
/-! DEFINITION. Sys2Proof/Machine/Debug.lean: breakpoint sets and RESUME (R350, R352), stops (R46, R354, R355), and the READ
spaces of the DEBUG descriptor (R357 to R359). -/

namespace Sys2Proof.Machine

/-! ### Breakpoints -/

/-- CORE of a DEBUG descriptor names a core of the context's image (R357). -/
def State.debugCore (s : State) (i : Slot) (d : List Byte) : Bool :=
  match (s.ctx i).image with
  | some im => decide ((le16 d 18).toNat < im.cores)
  | none => false

/-- CORE of a DEBUG descriptor lies beyond the cores of the context's image (R357). -/
def State.coreBeyond (s : State) (i : Slot) (d : List Byte) : Bool :=
  match (s.ctx i).image with
  | some im => decide (im.cores ≤ (le16 d 18).toNat)
  | none => false

/-- BRK_ARM (R350, R353): the new set replaces the old one, and where it holds the Bell for a core that is halted already the timer
holds from now. BELL_HOLD only from the admin ring, under a debug personality, on a chip outside a linked set. -/
def State.brkArm (s : State) (r : Ring) : State :=
  s.descRow r 0x91 (some [.loaded])
    (fun d s i => s.debugCore i d && (!bit (le16 d 17) 0 || (r == .admin && s.cfg.debug && !s.bel.master && !s.bel.linked)))
    fun d c i s =>
      let b : Brk := { code := le16 d 40, pcs := (List.range 4).map fun k => le16 d (42 + 2 * k), hold := bit (le16 d 17) 0 }
      ((s.modCtx i fun x => { x with brk := some b }).releaseHold.takeHold).finish c 0

/-- BRK_DISARM (R350, R352): halted cores stay halted; a set that no longer holds the Bell lets the timer go on. -/
def State.brkDisarm (s : State) (r : Ring) : State :=
  s.descRow r 0x92 (some [.loaded]) (fun d s i => s.debugCore i d) fun _ c i s =>
    ((s.modCtx i fun x => { x with brk := none }).releaseHold).finish c 0

/-- A halted core of a context goes on (R352). -/
def State.resumeCore (s : State) (i : Slot) (c : PCore) (step : Bool) : State :=
  s.modSeq c fun q =>
    if q.brkHalt && (match q.inst with | some x => x.slot == i | none => false) then { q with brkHalt := false, stepOne := step } else q

/-- RESUME (R352): the named image core, or with ALL every core of the context. -/
def State.debugResume (s : State) (r : Ring) : State :=
  s.descRow r 0x93 (some [.loaded]) (fun d s i => s.debugCore i d) fun d c i s =>
    let cores := if bit (le16 d 17) 2 then s.ctxCores i else (s.imageCore (s.ctx i).policy.pitch (le16 d 18).toNat).toList
    let s := cores.foldl (fun s k => s.resumeCore i k (bit (le16 d 17) 1)) s
    s.releaseHold.finish c 0

/-! ### READ spaces (Table 16.4) -/

/-- A core is halted at a breakpoint with an instance of the context. -/
def State.haltedIn (s : State) (i : Slot) (c : PCore) : Bool :=
  let q := (s.core c).seq
  q.brkHalt && match q.inst with | some x => x.slot == i | none => false

/-- The block is stopped, at a Bell or now. -/
def State.stoppedAny (s : State) : Bool := s.bel.stopped || s.dbg.stopped

/-- SPACE 1: 392 bytes of a sequencer. -/
def seqRegs (q : Seq) : List Byte :=
  q.s.toList.flatMap (fun w => leBytes 8 w.toNat) ++ q.a.toList.flatMap (fun w => leBytes 8 w.toNat) ++
  leBytes 8 (q.pc.toNat ||| q.preds.toNat <<< 16 ||| q.posted.toNat <<< 32 ||| q.arith.toNat <<< 48)

/-- SPACE 2: a task-store entry with its state word (Table 4.1). -/
def taskEntry (e : TaskEnt) : List Byte :=
  e.rcd.bytes ++ leBytes 16 (e.slot.val <<< 121 ||| e.gen.toNat <<< 109 ||| e.task <<< 91 ||| (e.count % 65536) <<< 75 ||| e.dataMask.toNat <<< 59 |||
    e.skipMask.toNat <<< 43 ||| b2n e.ctlReal <<< 42 ||| e.state <<< 39 ||| e.core <<< 32 ||| e.list.headD 0 <<< 16 ||| e.list.length <<< 10)

/-- A free task-store entry: STATE 0, and nothing else that the spec fixes. -/
def State.freeTaskEntry (s : State) : List Byte × State :=
  let r := s.freeBytes 48
  let w := leNat (r.1.drop 32)
  (r.1.take 32 ++ leBytes 16 (w - fieldN w 41 39 <<< 39), r.2)

/-- SPACE 3: a matching-store entry (Table 4.2); NEXT is the entry after it on its owner's list, else a free value. -/
def State.matchEntry (s : State) (idx : Nat) (e : MatchEnt) : List Byte × State :=
  let next := s.mkt.tasks.findSome? fun t =>
    match (t.2.list.dropWhile fun n => n != idx).drop 1 with
    | n :: _ => some n
    | [] => none
  let r := match next with | some n => (leBytes 2 n, s) | none => s.freeBytes 2
  (e.tok.bytes ++ leBytes 8 (leNat r.1 ||| e.port <<< 22 ||| e.task <<< 27 ||| e.gen.toNat <<< 45 ||| e.slot.val <<< 57), r.2)

/-- SPACE 4: a handle-table entry (Table 6.4). -/
def handleEntry (e : HEnt) : List Byte :=
  leBytes 12 (1 <<< 95 ||| e.slot.val <<< 88 ||| e.h <<< 80 ||| e.mem <<< 76 ||| e.cls <<< 73 ||| e.base <<< 32 ||| e.size)

/-- The 256 entries of a core's handle table; of an entry not in use only VALID 0 is fixed. -/
def State.handleDump (s : State) (c : PCore) : List Byte × State :=
  let l := (s.core c).handles
  let r := s.freeBytes (12 * (256 - l.length))
  let empty := r.1.zipIdx.map fun b => if b.2 % 12 = 11 then b.1 &&& 0x7F else b.1
  (l.flatMap handleEntry ++ empty, r.2)

/-- SPACE 5: the committed view of a device tensor of a context (R29). -/
def State.tensorDump (s : State) (i : Slot) (b : Binding) : List Byte :=
  if !b.versioned then s.devRead b.addr0 b.len else
  let g := (s.ctx i).gran (.offBlock b.tid)
  (List.range (ceilDiv b.len 4096)).flatMap fun n =>
    s.devRead ((if g.cur.contains n then b.addr1 else b.addr0) + 4096 * n) (min 4096 (b.len - 4096 * n))

/-- The units that keep a hang ring (R359). -/
def hangUnit (origin sub : Nat) : Bool :=
  let n := origin % 4096
  match origin / 4096 with
  | 1 => decide (n < 72) && decide (sub ≤ 5)
  | 3 => n == 0 && sub == 0
  | 4 => decide (n < 16) && sub == 0
  | 5 => n % 16 == 0 && decide (n < 64) && sub == 0
  | 6 => n == 0 && sub == 0
  | 7 => n == 0 && sub == 0
  | _ => false

/-- SPACE 6: the dump of a hang ring. -/
def State.hangDump (s : State) (unit : Nat) : List Byte :=
  let r := (s.dbg.hang.find unit).getD {}
  leBytes 8 s.clk.time ++ leBytes 8 r.count ++ List.replicate (16 * (64 - r.last.length)) 0 ++ r.last.flatMap fun e => leBytes 16 e.toNat

/-- SPACE 7: the stop table. -/
def State.stopDump (s : State) : List Byte :=
  s.dbg.stopTable.flatMap fun e => leBytes 16 (e.1.toNat ||| e.2.1.toNat <<< 16 ||| e.2.2 <<< 64)

/-- What a READ of a space finds: its bytes, or the code of its rejection. -/
def State.readSpace (s : State) (r : Ring) (i : Slot) (d : List Byte) : Except W16 (List Byte × State) :=
  let idx := (le32 d 20).toNat
  let tenant := r != .admin
  let core := s.imageCore (s.ctx i).policy.pitch (le16 d 18).toNat
  match dByte d 50 with
  | 0 =>
    if !s.debugCore i d then .error 0x8102 else
    match core with
    | none => .error 0x8102
    | some c =>
      match (s.core c).handle i (idx % 256) with
      | none => .error 0x8102
      | some e =>
        let off := 64 * (le32 d 36).toNat
        if e.mem ≥ 5 || e.size * 256 ≤ off then .error 0x8102
        else if !(s.haltedIn i c || s.stoppedAny) then .error 0x3110
        else .ok (s.readH c i e off (e.size * 256 - off) (s.ctx i).slice.isSome, s)
  | 1 =>
    if !s.debugCore i d then .error 0x8102 else
    match core with
    | none => .error 0x8102
    | some c => if s.haltedIn i c then .ok (seqRegs (s.core c).seq, s) else .error 0x3110
  | 2 =>
    if idx ≥ 262144 then .error 0x8102 else
    match s.mkt.tasks.find idx with
    | some e => if tenant && e.slot != i then .error 0x3110 else .ok (taskEntry e, s)
    | none => if tenant then .error 0x3110 else .ok s.freeTaskEntry
  | 3 =>
    if idx ≥ 65536 then .error 0x8102 else
    match s.mkt.matching.find idx with
    | some e => if tenant && e.slot != i then .error 0x3110 else .ok (s.matchEntry idx e)
    | none => if tenant then .error 0x3110 else .ok (s.freeBytes 24)
  | 4 => match core? idx with | some c => .ok (s.handleDump c) | none => .error 0x8102
  | 5 =>
    match (s.ctx i).bindings.find? fun b => b.tid == idx && !b.host with
    | none => .error 0x8102
    | some b => if (s.ctx i).slice.isNone || s.stoppedAny then .ok (s.tensorDump i b, s) else .error 0x3110
  | 6 => if hangUnit (idx % 65536) (idx / 65536 % 16) then .ok (s.hangDump (16 * (idx % 65536) + idx / 65536 % 16), s) else .error 0x8102
  | 7 => if s.dbg.stopped then .ok (s.stopDump, s) else .error 0x3110
  | _ => if s.trc.frozen || !s.trc.en then .ok (s.trc.ring.flatten, s) else .error 0x3110

/-- READ (R357, R358): a CORE beyond the image's cores is rejected in every space. A tenant ring is read in LOADED alone (Table 5.1); the admin ring names any slot. -/
def State.debugRead (s : State) (r : Ring) : State :=
  s.descRow r 0x94 none
    (fun d s i => (dSlot d).isSome && !s.coreBeyond i d && (le64 d 24).toNat % 64 == 0 && (le32 d 32).toNat % 64 == 0 && decide (64 ≤ (le32 d 32).toNat) && decide ((le32 d 32).toNat ≤ 16777216))
    fun d c i s =>
      if r != .admin && (s.ctx i).state != .loaded then s.finish c 0x3110 else
      match s.readSpace r i d with
      | .error code => s.finish c code
      | .ok (bytes, s) =>
        let out := bytes.take (le32 d 32).toNat
        (s.hostWrite (le64 d 24).toNat out (.desc c)).finish c 0 0 (BitVec.ofNat 32 out.length)

/-! ### Stops -/

/-- Every unit of Table 16.1 by ORIGIN and SUBUNIT; the scrubbers and self-tests stop with the control domain. -/
def stopUnits : List (W16 × BitVec 4) :=
  (allCores.flatMap fun c => (List.range 6).map fun u => (oCore c, BitVec.ofNat 4 u)) ++ [(oMarket 0, 0)] ++
  ((List.range 16).map fun p => (oMem p, (0 : BitVec 4))) ++ [(oHost, 0), (oCtl, 0)]

/-- A stop-now is requested (R354). -/
def State.stopNow (s : State) : State :=
  if s.dbg.stopped || s.dbg.stopReq then s else { s with dbg := { s.dbg with stopReq := true, stopAt := s.clk.time } }

/-- STOP_NOW_TAKEN (R354): every unit has stopped, after a FATAL_ERROR as before one, each at a time of its own no more than 96 fabric cycles after the
request: the stop time-stamps are free values in that bound. -/
def State.stopNowTaken (s : State) : State :=
  if s.dbg.stopped || !s.dbg.stopReq then s else
  let n := s.free
  let tab := stopUnits.zipIdx.map fun u => (u.1.1, u.1.2, s.dbg.stopAt + (Config.freeValue (n + u.2)).toNat % 65)
  let times := tab.map fun e => e.2.2
  let last := times.foldl max s.dbg.stopAt
  let smear := last - times.foldl min last
  let s : State := { s with free := n + stopUnits.length }
  let s := s.advanceTo last
  let s := tab.foldl (fun s e => s.traceAt e.2.2 11 0x7F e.1 (bodyAt [(8, leBytes 8 e.2.2), (16, [BitVec.ofNat 8 e.2.1.toNat])])) s
  let s : State := { s with dbg := { s.dbg with
    stopped := true, stopReq := false, smear := BitVec.ofNat 16 smear, stopTable := tab, stopAt := s.clk.time } }
  s.note 0xC002 (1 ||| (smear % 65536) <<< 16)

/-- RESUME_NOW is accepted: the chip is in no linked set, and no port is UP (R355). -/
def State.mayResume (s : State) : Bool := !s.bel.master && !s.bel.linked && allPorts.all fun p => (s.port p).state != 5

/-- The block leaves the stopped-now state: the pending Bell is later by the time stopped, what the links hold is delivered,
and what acknowledgements have made ready goes on, the writes that waited for them too. -/
def State.resumeNow (s : State) : State :=
  if !s.dbg.stopped then s else
  let gone := s.clk.time - s.dbg.stopAt
  let s : State := { s with
    dbg := { s.dbg with stopped := false, holdFrom := s.dbg.holdFrom.map (· + gone) }
    bel := { s.bel with last := s.bel.last + gone }
    outst := if s.pwr.lost then s.outst else sendWaiting s.clk.cycle [] s.outst }
  let s := allPorts.foldl (fun s p => s.drainHeld p (16 * s.clk.time)) s
  (allSlots.foldl (fun s i => (s.checkComplete i).evictEnd i) s).settle

/-- A write of DBG.CTRL (Table 16.2); a RESUME_NOW that is rejected reports CTX_STATE (R355). -/
def State.writeDbgCtrl (s : State) (v : W32) : Wr :=
  if bit v 1 && s.dbg.stopped then (if s.mayResume then .done s.resumeNow else s.rangeIgnored 0x3110)
  else .done (if bit v 0 then s.stopNow else s)

/-- STOP_AT_BELL as a descriptor (R46). -/
def State.stopAtBell (s : State) (r : Ring) : State :=
  s.descRow r 0x95 none (fun _ _ _ => true) fun _ c _ s => ((s.writeBelCtrl (s.belCtrl ||| 8)).after s).finish c 0

/-- RESUME_BELL as a descriptor (R47): STOP_AT_BELL cleared, then EN = 1. -/
def State.resumeBell (s : State) (r : Ring) : State :=
  s.descRow r 0x96 none (fun _ _ _ => true) fun _ c _ s => ((s.writeBelCtrl ((s.belCtrl &&& ~~~8) ||| 1)).after s).finish c 0

/-- STOP_NOW as a descriptor (R354). -/
def State.stopNowDesc (s : State) (r : Ring) : State :=
  s.descRow r 0x97 none (fun _ _ _ => true) fun _ c _ s => s.stopNow.finish c 0

/-- RESUME_NOW as a descriptor (R355). -/
def State.resumeNowDesc (s : State) (r : Ring) : State :=
  s.descRow r 0x98 none (fun _ _ _ => true) fun _ c _ s => if s.mayResume then s.resumeNow.finish c 0 else s.finish c 0x3110

/-- TRIGGER as a descriptor (R369). -/
def State.triggerDesc (s : State) (r : Ring) : State :=
  s.descRow r 0x99 none (fun _ _ _ => true) fun _ c _ s => s.triggerTrace.finish c 0

def execBrkArm (r : Ring) (s : State) : Host.Outcome State Fault Refusal := s.run fun s => s.brkArm r
def execBrkDisarm (r : Ring) (s : State) : Host.Outcome State Fault Refusal := s.run fun s => s.brkDisarm r
def execDebugResume (r : Ring) (s : State) : Host.Outcome State Fault Refusal := s.run fun s => s.debugResume r
def execDebugRead (r : Ring) (s : State) : Host.Outcome State Fault Refusal := s.run fun s => s.debugRead r
def execStopNowTaken (s : State) : Host.Outcome State Fault Refusal := s.run fun s => s.stopNowTaken

end Sys2Proof.Machine
end

