-- ==== Sys2Proof/Machine/Fabric.lean ====
section
/-! DEFINITION. Sys2Proof/Machine/Fabric.lean: fabric images: LOAD_IMAGE of KIND 1 with its scan pass, the install pass and
its check (R392 to R394). -/

namespace Sys2Proof.Machine

/-- A frame of Table 17.12: the logical core whose router it sets, and its 64 route entries. -/
structure FabFrame where
  lcore : Nat
  entries : List Byte
deriving DecidableEq, Repr

/-- FRAMES of a header. -/
def fabFrames (hd : List Byte) : Nat := (le16 hd 6).toNat

/-- Bytes of a fabric image. -/
def fabLen (frames : Nat) : Nat := 64 + 72 * frames

/-- Frame i of an image. -/
def fabFrame (bs : List Byte) (i : Nat) : FabFrame :=
  let f := (bs.drop (64 + 72 * i)).take 72
  { lcore := fld (f[0]?.getD 0) 5 0, entries := f.drop 8 }

/-- The frames of an image. -/
def fabAll (bs : List Byte) : List FabFrame := (List.range (fabFrames bs)).map (fabFrame bs)

/-- Entry d of a frame. -/
def FabFrame.entry (f : FabFrame) (d : Nat) : Byte := f.entries[d]?.getD 0

/-- Magic, version, frame count and reserved fields of the header. -/
def fabHeaderOk (bs : List Byte) : Bool :=
  le32 bs 0 == 0x4241465A && le16 bs 4 == 0x0100 && decide (1 ≤ fabFrames bs) && decide (fabFrames bs ≤ 64) && zeroBytes bs 8 60

/-- Reserved fields and encodings of one frame. -/
def fabFrameOk (bs : List Byte) (i : Nat) : Bool :=
  let f := (bs.drop (64 + 72 * i)).take 72
  fld (f[0]?.getD 0) 7 6 == 0 && zeroBytes f 1 8 && (f.drop 8).all fun e => fld e 6 3 == 0 && decide (fld e 2 0 ≤ 4)

/-- The logical core one step in a direction of Table 17.12, none past the edge of the 8 × 8 grid. -/
def fabStep (l out : Nat) : Option Nat :=
  match out with
  | 0 => if l < 8 then none else some (l - 8)
  | 1 => if l % 8 = 7 then none else some (l + 1)
  | 2 => if l + 8 < 64 then some (l + 8) else none
  | 3 => if l % 8 = 0 then none else some (l - 1)
  | _ => none

/-- A walk of the valid entries from a core reaches d within n hops and stays in the mask. -/
def fabWalk (fs : List FabFrame) (mask : W64) (d : Nat) : Nat → Nat → Bool
  | 0, x => x == d
  | n + 1, x =>
    if x = d then true else
    match fs.find? fun f => f.lcore == x with
    | none => false
    | some f =>
      let e := f.entry d
      if !bit e 7 then false else
      match fabStep x (fld e 2 0) with
      | some y => mask.getLsbD y && fabWalk fs mask d n y
      | none => false

/-- Whether the valid entry for d of a frame breaks FAB_ROUTE. -/
def fabRouteBad (fs : List FabFrame) (mask : W64) (f : FabFrame) (d : Nat) : Bool :=
  let e := f.entry d
  bit e 7 && (!mask.getLsbD d || (fld e 2 0 == 4 && d != f.lcore) || !fabWalk fs mask d 16 f.lcore)

/-- The scan checks in their order: the code of the first that fails, and its DETAIL. -/
def fabScan (bs : List Byte) (mask : W64) : Option (W16 × W32) :=
  if !fabHeaderOk bs then some (0xA301, 0) else
  let fs := fabAll bs
  if !(List.range fs.length).all (fabFrameOk bs) || (fs.map (·.lcore)).eraseDups.length ≠ fs.length then some (0xA301, 0) else
  match fs.find? fun f => !mask.getLsbD f.lcore with
  | some f => some (0xA302, BitVec.ofNat 32 f.lcore)
  | none =>
    match fs.findSome? fun f => ((List.range 64).find? (fabRouteBad fs mask f)).map fun d => (f.lcore, d) with
    | some x => some (0xA303, (Config.detailPack 0xA303 [x.1, x.2]).setWidth 32)
    | none => none

/-- The check word over the header, CHECK taken as zero, and every frame. -/
def fabCheck (bs : List Byte) : Bool := crc32c (zeroAt bs 60) == le32 bs 60

/-- A fabric image read from device memory, with the supervisor's tag (R310): its header, then as many frames as it names. -/
def State.readFabric (s : State) (addr : Nat) : List Byte × State :=
  let n := min 64 (fabFrames (s.devRead addr 64))
  (s.devRead addr (fabLen n), s.readReq false addr (fabLen n) .supervisor)

/-- Every stream route of a pitch's cores is made invalid. -/
def State.dropRoutes (s : State) (p : Pitch) : State :=
  { s with streams := s.streams.filter fun e => !(s.pit p).mask.getLsbD e.1 }

/-- An install in progress ends with a code: before its install pass the pitch keeps its state and routes; from then on they
are invalid and the pitch UNCONFIGURED. -/
def State.endInstall (s : State) (p : Pitch) (code : W16) (detail : W32 := 0) : State :=
  match (s.pit p).install with
  | none => s
  | some x =>
    let s := s.modPit p fun y => { y with install := none }
    let s := if x.phase < 2 then s else (s.dropRoutes p).modPit p fun y => { y with state := 1 }
    s.finish x.comp code 0 detail

/-- LOAD_IMAGE of KIND 1: acceptance and the scan pass. -/
def State.loadFabric (s : State) (r : Ring) : State :=
  s.descRow r 0x21 none (fun d _ _ => (le64 d 16).toNat % 16 == 0) fun d c _ s =>
    let p : Pitch := ⟨dByte d 25 % 16, Nat.mod_lt _ (by decide)⟩
    let x := s.pit p
    if x.mask = 0 || x.install.isSome || !(s.residents p).isEmpty then s.finish c 0x3112 else
    let addr := (le64 d 16).toNat
    let b := s.readFabric addr
    match fabScan b.1 x.mask with
    | some e => b.2.finish c e.1 0 e.2
    | none => b.2.modPit p fun y => { y with install := some { comp := c, addr := addr, frames := fabFrames b.1, phase := 1 } }

/-- FABRIC_INSTALL_PASS: the image is read and checked again, and its frames are written; a core of the mask with no frame
gets all entries invalid. A frame for a core outside the mask is not written. -/
def State.fabricPass (s : State) (p : Pitch) : State :=
  match (s.pit p).install with
  | none => s
  | some x =>
    if !s.runs || x.phase ≠ 1 then s else
    let b := s.readFabric x.addr
    let s := b.2.dropRoutes p
    let bad := (fabScan b.1 (s.pit p).mask).isSome || !fabCheck b.1
    let s : State := { s with streams := ((fabAll b.1).take 64).foldl (fun m f =>
      if (s.pit p).mask.getLsbD f.lcore then m.insert f.lcore f.entries else m) s.streams }
    s.modPit p fun y => { y with state := 3, install := some { x with phase := 2, bad := bad, crc := crc32c (zeroAt b.1 60), check := le32 b.1 60 } }

/-- FABRIC_INSTALL_CHECK: the pitch is CONFIGURED, or UNCONFIGURED with FAB_CHECK. -/
def State.fabricEnd (s : State) (p : Pitch) : State :=
  match (s.pit p).install with
  | none => s
  | some x =>
    if !s.runs || x.phase ≠ 2 then s
    else if x.bad then (s.endInstall p 0xA304).settle
    else ((s.modPit p fun y => { y with install := none, state := 2 }).finish x.comp 0).settle

def execLoadFabricImage (r : Ring) (s : State) : Host.Outcome State Fault Refusal := s.run fun s => s.loadFabric r
def execFabricInstallPass (p : Pitch) (s : State) : Host.Outcome State Fault Refusal := s.run fun s => s.fabricPass p
def execFabricInstallCheck (p : Pitch) (s : State) : Host.Outcome State Fault Refusal := s.run fun s => s.fabricEnd p

end Sys2Proof.Machine
end

