-- ==== Sys2Proof/Machine/Reset.lean ====
section
/-! DEFINITION. Sys2Proof/Machine/Reset.lean: the five reset scopes (R383, Table 17.5). -/

namespace Sys2Proof.Machine

/-- The state of a cold reset, with what lies outside the block: the commands that wait, off-block memory, and the model's
counter of free values. -/
def State.fresh (s : State) : State := { pending := s.pending, free := s.free, hostMem := s.hostMem, devMem := s.devMem }

/-- COLD_RESET: everything is reset, and stage S0 samples the straps. -/
def State.coldReset (s : State) (st : Straps) : State :=
  let f := s.fresh
  { f with straps := st }

/-- A reset whose start-up has not ended. -/
def State.resetting (s : State) (sc : Scope) : Bool := !s.cfg.done && s.cfg.scope == sc

/-- WARM_RESET: all but the locked F-loop and T-loop, the time-stamp, the hang rings, the soft repair map in force and the
captured upper halves (R418); DEVICE_ID, which no reset scope changes once S2 has read it (R413); the straps and the levels of the supplies are as they were. Ignored while a cold reset runs, or while the test wrapper holds the block. -/
def State.warmReset (s : State) : State :=
  if s.wrap.hold || s.resetting .cold then s else
  let f := s.fresh
  { f with
    clk := s.clk, straps := s.straps, wrap := s.wrap, fuse := { f.fuse with devId := s.fuse.devId }
    cfg := { f.cfg with stage := 1, stageAt := s.clk.time, scope := .warm, rmapSoft := s.cfg.rmapSoft }
    mgmt := { f.mgmt with caps := s.mgmt.caps }
    pwr := { f.pwr with
      tlock := s.pwr.tlock, flock := s.pwr.flock, aryPg := s.pwr.aryPg, memPg := s.pwr.memPg, onB := s.pwr.onB, bOk := s.pwr.bOk, bLowSaid := s.pwr.bLowSaid }
    dbg := { f.dbg with hang := s.dbg.hang }
    errs := { f.errs with soft := s.errs.soft, softSeq := s.errs.softSeq } }

/-- A context slot in a block soft reset: FREE, seeds 0; its set-up registers and its counters stand. An image that is pending goes
without the CTX_STATE completion of R65: the host port is parked from the start of the reset, and the rings begin anew (DESIGN CHOICE,
log entry 59). -/
def Ctx.softReset (c : Ctx) : Ctx := { quota := c.quotaReg, quotaReg := c.quotaReg, freeReg := c.freeReg, counters := c.counters }

/-- A core in a block soft reset: scratch off, queues and sequencer reset; its place in the repair map, its registers, its
counters and the wear of its parts stand. -/
def Core.softReset (k : Core) : Core :=
  { lcore := k.lcore, retired := k.retired, imem := k.imem, bankForce := k.bankForce, counters := k.counters, ceCount := k.ceCount, trigger := k.trigger
    colsUsed := k.colsUsed, suspect := k.suspect, rowsUsed := k.rowsUsed, groupsUsed := k.groupsUsed }

/-- A pitch in a block soft reset: its mask and registers stand, its frames are gone. -/
def PitchSt.softReset (p : PitchSt) : PitchSt :=
  { p with state := if p.mask = 0 then 0 else 1, install := none, admitDue := false, admitted := [], mode := p.modeReg }

/-- A link port in a block soft reset: DOWN, EN 0; its other registers and the wear of its lanes stand. -/
def Port.softReset (x : Port) : Port :=
  { spareAuto := x.spareAuto, degradeOk := x.degradeOk, loop := x.loop, laneMap := x.laneMap, phylatReg := x.phylatReg, phylat := x.phylat
    replayReg := x.replayReg, laneCe := x.laneCe, margin := x.margin, rxlock := x.rxlock }

/-- The queue instances shared by all contexts, by KIND and index, but the trace egress, whose epoch the trace unit keeps (R241). -/
def sharedQueues : List Nat :=
  List.range 64 ++ (List.range 72).map (0x1000 + ·) ++ (List.range 72).map (0x3000 + ·) ++ [0x6000, 0x7000]

/-- The epochs of the shared queues after a flush of them all (R241). -/
def Market.flushEpochs (m : Market) : KMap Nat :=
  sharedQueues.foldl (fun e q => e.insert q (((e.find q).getD 0 + 1) % 4096)) m.epochs

/-- The Market in a block soft reset: its stores are empty; its registers, its queues' epochs, advanced by the flush, and
the wear of its rows stand. -/
def Market.softReset (m : Market) : Market :=
  { ctxSel := m.ctxSel, pitSel := m.pitSel, poolMargin := m.poolMargin, swapBaseReg := m.swapBaseReg, swapBase := m.swapBase
    swapCountReg := m.swapCountReg, swapCount := m.swapCount, epochs := m.flushEpochs
    rowsUsed := m.rowsUsed, ceCount := m.ceCount, trigger := m.trigger }

/-- The Bell in a block soft reset: EN and BEL.COUNT 0; its other registers stand, MARKER_MISSED of BEL.STATUS among them, which is
cleared by writing 1 alone (Table 17.5). -/
def BellSt.softReset (b : BellSt) : BellSt :=
  { master := b.master, linked := b.linked, upstream := b.upstream, stopAt := b.stopAt, periodReg := b.periodReg, period := b.periodReg
    reserveReg := b.reserveReg, reserve := b.reserve, guardReg := b.guardReg, guard := b.guard, markerMissed := b.markerMissed }

/-- The host unit in a block soft reset: EN, ADMIN_HALT and SLEEPING 0, its rings at their start; its other registers stand. -/
def HostSt.softReset (h : HostSt) : HostSt :=
  { sleepEn := h.sleepEn, idleBells := h.idleBells, spasid := h.spasid, shadow := h.shadow, adb := h.adb, asq := h.asq, acq := h.acq, evq := h.evq
    tlq := h.tlq, rsize := h.rsize, agen := h.agen, msixA := h.msixA, msixB := h.msixB }

/-- Block soft reset: then S6 and S7. -/
def State.softReset (s : State) : State :=
  let s := s.loseEvents.loseTallies
  { s with
    ctxs := s.ctxs.map Ctx.softReset, cores := s.cores.map Core.softReset, pits := s.pits.map PitchSt.softReset, ports := s.ports.map Port.softReset
    mkt := s.mkt.softReset, bel := s.bel.softReset, hst := s.hst.softReset, streams := [], outst := (s.outst.filter fun w => !w.waits).map fun w => { w with owner := .gone }
    ev := { s.ev with windows := [], ce := [], held := [] }
    errs := { s.errs with fatal := false, subst := none }
    dbg := { s.dbg with stopped := false, stopReq := false, holdFrom := none }
    trc := { s.trc.flush with en := false }
    cfg := { s.cfg with stage := 6, stageAt := s.clk.time, done := false, scope := .soft, domains := Tab.fill 12 {}, zDrive := true, staleSaid := [] } }

/-- Pitch reset: its contexts are torn down, its cores reset, an install in progress ended (R394). -/
def State.pitchReset (s : State) (p : Pitch) : State :=
  let s := (s.residents p).foldl (fun s i => s.teardown i 0x900B) s
  let s := (s.pitchCores p).foldl (fun s c => s.modCore c fun k =>
    { k with seq := { mode := s.idleMode c }, queues := Tab.fill 4 [], presA := [], presP := [], tables := Tab.fill 16 none }) s
  let s := s.endInstall p 0xA305
  ((s.dropRoutes p).modPit p fun x => { x with state := if x.mask = 0 then 0 else 1 }).settle

/-- A LOAD_TENSOR of the context that waits is abandoned (R383). -/
def State.dropTensors (s : State) (i : Slot) (code : W16) : State :=
  s.ev.held.foldl (fun s h => match h.waitFor with
    | .tensor j _ => if j = i then (s.unhold h).finish h.comp code else s
    | _ => s) s

/-- Context reset (R383): steps 1 to 4 of a teardown, of a TORN slot too, whose CTX_GEN advances again; then the image freed and the
slot OPEN. -/
def State.contextReset (s : State) (i : Slot) : State :=
  match (s.ctx i).state with
  | .free => s
  | .arriving => (s.swapFail i 0x900A).settle
  | st =>
    let s := (s.dropTensors i 0x900A).teardown i 0x900A
    let s := if st = .torn then s.modCtx i fun c => { c with ctxGen := c.ctxGen + 1 } else s
    let s := s.dropImage i
    (s.modCtx i fun c => { c with
      state := .opened, image := none, sources := [], statCom := [], fmt := [], noResume := false, reload := false
      ver := c.ver.filter fun v => v.1.offChip }).settle

/-- A write of CFG.RESET (Table 17.14): one action, no reset of a wider scope in progress. -/
def State.writeReset (s : State) (v : W32) : Wr :=
  let n := fld v 2 0
  if n = 3 || n ≥ 5 then s.rangeIgnored
  else if bit v 0 then .done s.softReset
  else if bit v 1 then .done (s.pitchReset ⟨fld v 7 4 % 16, by omega⟩)
  else if bit v 2 then (match slot? (fld v 14 8) with | some i => .done (s.contextReset i) | none => .ignored s)
  else .done s

def execColdReset (st : Straps) (s : State) : Host.Outcome State Fault Refusal := .next (s.coldReset st)
def execWarmReset (s : State) : Host.Outcome State Fault Refusal := .next s.warmReset

end Sys2Proof.Machine
end

