-- ==== Sys2Proof/Machine/Regs.lean ====
section
/-! DEFINITION. Sys2Proof/Machine/Regs.lean: the set-up registers: the management slave port (R406, R417, R418), the reads and
writes of Tables 19.2 to 19.4, and the commands that write a named register. -/

namespace Sys2Proof.Machine

/-! ### Selected units -/

def State.selCtx (s : State) : Slot := (slot? s.mkt.ctxSel).getD 0
def State.selSeed (s : State) : Slot := (slot? s.cfg.seedSel).getD 0
def State.selMkPit (s : State) : Pitch := ⟨s.mkt.pitSel % 16, by omega⟩
def State.selPit (s : State) : Pitch := ⟨s.mgmt.pitSel % 16, by omega⟩
def State.selCore (s : State) : PCore := (core? s.mgmt.corSel).getD 0
def State.selPort (s : State) : LPort := ⟨s.mgmt.lnkSel % 4, by omega⟩

/-! ### Reads (R413, R414, R417) -/

/-- The size table (Table 19.3), from offset 0x0040. -/
def sizeTable : List W32 :=
  [0x48984088, 0x08008020, 0x00800400, 0x00400100, 0x10201000, 0x18000C00, 0x04000800, 0x02000C06, 0x00040000, 0x00100000,
   0x00010000, 0x00100000, 0x00601004, 0x10040801, 0x0C1E010F]

/-- COR.STATUS (Table 6.7). -/
def State.corStatus (s : State) (c : PCore) : Nat :=
  let k := s.core c
  let p := s.pitchOf c
  let training := match p with
    | some q => (s.residents q).any fun i => match (s.ctx i).image with | some im => im.training | none => false
    | none => false
  (match k.lcore with | some l => l.val | none => 0xFF) <<< 8 ||| (match p with | some q => q.val | none => 0) <<< 4 ||| b2n p.isSome <<< 3 |||
  b2n k.seq.inst.isSome <<< 2 ||| b2n training <<< 1

/-- Spare cores that remain: of the eight beyond the sixty-four, those not retired. -/
def State.sparesLeft (s : State) : Nat := 72 - (allCores.filter fun c => (s.core c).retired).length - 64

/-- The counter that CNT.SEL names. -/
def State.selCounter (s : State) : Nat :=
  if bit s.cnt.sel 31 then s.globalCounter (fld s.cnt.sel 15 0) else s.ctxCounter ((slot? (fld s.cnt.sel 22 16)).getD 0) (fld s.cnt.sel 15 0)

/-- The one-way delay of a port (R281). -/
def Port.delay (x : Port) : Int := match x.tsync with | (_, d, _) :: _ => d | [] => 0

/-- The 64-bit value of the pair whose _LO register lies at an offset (R418). -/
def State.pairVal (s : State) (off : Nat) : Option Nat :=
  match off with
  | 0x1010 => some s.cfg.perSeq.toNat
  | 0x1114 => some (s.ctx s.selSeed).seedReg.toNat
  | 0x2010 => some s.hst.shadow.toNat
  | 0x2018 => some s.hst.adb.toNat
  | 0x2020 => some s.hst.asq.toNat
  | 0x2028 => some s.hst.acq.toNat
  | 0x2030 => some s.hst.evq.toNat
  | 0x2038 => some s.hst.tlq.toNat
  | 0x4018 => some s.bel.count.toNat
  | 0x5020 => some s.mkt.swapBaseReg.toNat
  | 0x8050 => some (wrapN 64 ((s.port s.selPort).predict (16 * s.clk.time)))
  | 0x9028 => some s.errs.rmap.toNat
  | 0x9030 => some s.errs.rmapSeq.toNat
  | 0xA108 => some s.selCounter
  | 0xB020 => some s.trc.lost.toNat
  | _ => none

/-- Registers of pages 0 and 1. -/
def State.readCfg (s : State) (off : Nat) : Option Nat :=
  let g := s.cfg
  match off with
  | 0x0000 => some (Config.stepping.toNat <<< 24 ||| 0x5A1ADE)
  | 0x0004 => some 0x000F0100
  | 0x0008 => some 0x10101010
  | 0x0010 => some (leNat (s.fuse.devId.take 4))
  | 0x0014 => some (leNat ((s.fuse.devId.drop 4).take 4))
  | 0x0018 => some (leNat ((s.fuse.devId.drop 8).take 4))
  | 0x001C => some (leNat ((s.fuse.devId.drop 12).take 4))
  | 0x1000 => some (b2n g.fallback ||| b2n g.perDone <<< 1 ||| b2n s.straps.perSrc <<< 2 ||| b2n (g.rmapSoft || !s.errs.soft.isEmpty) <<< 3 ||| b2n g.debug <<< 4 ||| g.reason <<< 8)
  | 0x1004 => some 0
  | 0x1008 => some 0
  | 0x100C => some 0
  | 0x1100 => some (g.stage ||| b2n g.done <<< 4)
  | 0x1104 => some 0
  | 0x1108 => some (b2n g.zHold ||| b2n g.zDrive <<< 1 ||| b2n g.zIn <<< 2)
  | 0x110C => some (b2n g.det)
  | 0x1110 => some g.seedSel
  | 0x111C => some (b2n (s.ctx s.selSeed).freeReg)
  | 0x1120 => some g.stashReg
  | 0x1124 => some g.qstale.toNat
  | _ => if 0x40 ≤ off && off < 0x7C then (sizeTable[(off - 0x40) / 4]?).map (·.toNat) else none

/-- Registers of pages 2 to 5. -/
def State.readHost (s : State) (off : Nat) : Option Nat :=
  let h := s.hst
  match off with
  | 0x2000 => some (b2n h.en ||| b2n h.sleepEn <<< 1)
  | 0x2004 => some (b2n h.sleeping <<< 1 ||| b2n h.halt <<< 2)
  | 0x2008 => some h.idleBells
  | 0x200C => some h.spasid.toNat
  | 0x2040 => some h.rsize.toNat
  | 0x2044 => some h.agen.toNat
  | 0x2048 => some h.msixA.toNat
  | 0x204C => some h.msixB.toNat
  | 0x3000 => some 0
  | 0x4000 => some s.belCtrl.toNat
  | 0x4004 => some s.bel.periodReg
  | 0x4008 => some s.bel.reserveReg
  | 0x400C => some s.bel.guardReg
  | 0x4010 => some s.belStatus.toNat
  | 0x5000 => some s.mkt.ctxSel
  | 0x5004 => some (s.ctx s.selCtx).quotaReg
  | 0x5008 => some (s.mkt.live s.selCtx)
  | 0x500C => some (s.mkt.ret s.selCtx)
  | 0x5010 => some s.poolFree
  | 0x5014 => some s.mkt.poolMargin
  | 0x5018 => some s.mkt.pitSel
  | 0x501C => some (s.pit s.selMkPit).modeReg.toNat
  | 0x5028 => some s.mkt.swapCountReg
  | _ => none

/-- Registers of pages 6 to 8. -/
def State.readUnits (s : State) (off : Nat) : Option Nat :=
  let p := s.pit s.selPit
  let x := s.port s.selPort
  match off with
  | 0x6000 => some s.mgmt.pitSel
  | 0x6004 => some p.stagedLo.toNat
  | 0x6008 => some p.stagedHi.toNat
  | 0x600C => some (p.state <<< 6)
  | 0x6010 => some p.rd.reg.toNat
  | 0x6014 => some p.wr.reg.toNat
  | 0x6018 => some p.tx.reg.toNat
  | 0x601C => some p.evictReg.toNat
  | 0x7000 => some s.mgmt.corSel
  | 0x7004 => some (s.corStatus s.selCore)
  | 0x7008 => some (s.core s.selCore).bankOn.toNat
  | 0x700C => some (s.core s.selCore).bankForce.toNat
  | 0x8000 => some (s.mgmt.chip ||| s.mgmt.bellFwd.toNat <<< 8)
  | 0x8004 => some s.mgmt.lnkSel
  | 0x8008 => some s.mgmt.routeSel
  | 0x800C => some ((s.mgmt.routes.find s.mgmt.routeSel).getD 7)
  | 0x8040 => some (s.linkCtrl s.selPort).toNat
  | 0x8044 => some (x.state ||| (if x.state ≥ 5 then x.width else 0) <<< 8 ||| x.peer <<< 24)
  | 0x8048 => some x.laneMap.toNat
  | 0x804C => some x.phylatReg.toNat
  | 0x8058 => some (wrapN 32 x.delay)
  | 0x805C => some x.replayReg.toNat
  | _ => none

/-- Registers of pages 9 to 12. -/
def State.readTail (s : State) (off : Nat) : Option Nat :=
  let e := s.errs
  let t := s.trc
  let p := s.pwr
  match off with
  | 0x9000 => some e.ctrl.toNat
  | 0x9004 => some (b2n e.fatal ||| b2n e.dirty <<< 1)
  | 0x9008 => some e.force
  | 0x900C => some e.selftest
  | 0x9010 => some e.cewinReg.toNat
  | 0x9014 => some e.thrScrReg.toNat
  | 0x9018 => some e.thrMktReg.toNat
  | 0x901C => some e.thrLaneReg.toNat
  | 0x9020 => some 0
  | 0x9024 => some e.agingReg.toNat
  | 0x9038 => some s.sparesLeft
  | 0xA000 => some 0
  | 0xA004 => some (b2n s.dbg.stopped ||| b2n (allCores.any fun c => (s.core c).seq.brkHalt) <<< 1 ||| b2n s.cfg.debug <<< 2 ||| s.dbg.smear.toNat <<< 16)
  | 0xA100 => some (b2n s.cnt.detail)
  | 0xA104 => some s.cnt.sel.toNat
  | 0xB000 => some s.trcCtrl.toNat
  | 0xB004 => some (t.kinds.toNat <<< 1)
  | 0xB008 => some t.src
  | 0xB00C => some t.val.toNat
  | 0xB010 => some t.post
  | 0xB014 => some t.pcsamp
  | 0xB018 => some t.linksamp
  | 0xB01C => some (b2n t.triggered <<< 2 ||| b2n t.frozen <<< 3 ||| min t.level 0xFFFF <<< 4)
  | 0xC000 => some (b2n p.onB ||| b2n p.bOk <<< 1 ||| b2n p.alock <<< 2 ||| b2n p.flock <<< 3 ||| b2n p.tlock <<< 4 ||| b2n p.aryPg <<< 5 |||
      b2n p.memPg <<< 6 ||| b2n p.vok <<< 7 ||| b2n (decide (p.aclk < p.target)) <<< 8 ||| b2n (!p.emergency.isEmpty) <<< 9 ||| p.aclk <<< 16 ||| p.temp <<< 24)
  | 0xC004 => some p.vid
  | 0xC008 => some p.target
  | 0xC00C => some p.throttle
  | 0xC010 => some p.emergReg
  | 0xC014 => some (p.tsoftReg ||| p.softClkReg <<< 16)
  | 0xC018 => some (b2n p.autoReturn ||| b2n p.forceB <<< 1)
  | _ => none

/-- The value that a read of an offset returns, none where no register lies. -/
def State.regRead (s : State) (off : Nat) : Option W32 :=
  match s.pairVal off with
  | some v => some (BitVec.ofNat 32 v)
  | none =>
    if (s.pairVal (off - 4)).isSome && decide (4 ≤ off) then some ((s.mgmt.caps.find (off - 4)).getD 0)
    else ((s.readCfg off).or ((s.readHost off).or ((s.readUnits off).or (s.readTail off)))).map (BitVec.ofNat 32)

/-- The byte offset that MS_ADDR carries: bits [15:2]. -/
def regOff (off : W16) : Nat := off.toNat / 4 * 4

/-- A read through the management slave port: a read of a _LO register captures its upper half (R418). -/
def State.portRead (s : State) (off : W16) : State :=
  if s.cfg.stage = 0 then s else
  let o := regOff off
  match s.regRead o with
  | none => { s with mgmt := { s.mgmt with rdata := 0, err := true } }
  | some v =>
    let caps := match s.pairVal o with | some w => s.mgmt.caps.insert o (BitVec.ofNat 32 (w / 2 ^ 32)) | none => s.mgmt.caps
    { s with mgmt := { s.mgmt with rdata := v, err := false, caps := caps } }

/-! ### Writes (R415, R417 to R419) -/

/-- A write of a pair's _HI half is staged; a write of its _LO half commits both (R418). -/
def State.stageHi (s : State) (lo : Nat) (v : W32) : State := { s with mgmt := { s.mgmt with staged := s.mgmt.staged.insert lo v } }

/-- The 64-bit value that a write of a _LO half commits, and the state with nothing staged for the pair. -/
def State.commitLo (s : State) (lo : Nat) (v : W32) : W64 × State :=
  let hi := match s.mgmt.staged.find lo with | some h => h.toNat | none => ((s.pairVal lo).getD 0) / 2 ^ 32
  (BitVec.ofNat 64 (hi <<< 32 ||| v.toNat), { s with mgmt := { s.mgmt with staged := s.mgmt.staged.erase lo } })

/-- A selector's write. -/
def State.selectReg (s : State) (n limit : Nat) (f : State → State) : Wr := if n ≥ limit then s.rangeIgnored else .done (f s)

/-- PER.PUSH: a word of the personality image (R388). -/
def State.pushWord (s : State) (v : W32) : Wr :=
  if s.cfg.stage ≠ 3 || !s.straps.perSrc || s.cfg.pushDone then .ignored s
  else if 12 ≤ s.cfg.push.length && 64 + (le32 s.cfg.push 8).toNat ≤ s.cfg.push.length then .ignored s
  else .done { s with cfg := { s.cfg with push := s.cfg.push ++ leBytes 4 v.toNat } }

/-- PER.RMAPPUSH: a word of the soft repair map (R346, R391). -/
def State.rmapWord (s : State) (v : W32) : Wr :=
  if s.cfg.stage ≠ 4 || s.cfg.rmapDone then .ignored s else .done { s with cfg := { s.cfg with rmapPush := s.cfg.rmapPush ++ leBytes 4 v.toNat } }

/-- PER.CTRL: the end of a push (R346, R388). -/
def State.writePerCtrl (s : State) (v : W32) : Wr :=
  let a := bit v 0 && s.cfg.stage == 3 && s.straps.perSrc
  let b := bit v 1 && s.cfg.stage == 4
  let s' : State := { s with cfg := { s.cfg with pushDone := s.cfg.pushDone || a, rmapDone := s.cfg.rmapDone || b } }
  if (bit v 0 && !a) || (bit v 1 && !b) then .ignored s' else .done s'

/-- CFG.DET (R319). -/
def State.writeDet (s : State) (v : W32) : Wr :=
  let req := allSlots.any fun i =>
    (s.ctx i).resident && ((match (s.ctx i).image with | some im => im.detReq | none => false) || (match (s.ctx i).pending with | some p => p.1.detReq | none => false))
  if s.cfg.det && !bit v 0 && req then s.rangeIgnored 0xA210
  else if !s.cfg.det && bit v 0 && allSlots.any (fun i => (s.ctx i).freeReg || (s.ctx i).freeOn) then s.rangeIgnored 0xA210
  else .done { s with cfg := { s.cfg with det := bit v 0 } }

/-- CFG.RNGMODE (R319, R322). -/
def State.writeRngMode (s : State) (v : W32) : Wr :=
  if bit v 0 && s.cfg.det then s.rangeIgnored 0xA210 else .done (s.modCtx s.selSeed fun c => { c with freeReg := bit v 0 })

/-- Registers of page 1. -/
def State.writeCfg (s : State) (off : Nat) (v : W32) : Wr :=
  match off with
  | 0x1004 => s.writePerCtrl v
  | 0x1008 => s.pushWord v
  | 0x100C => s.rmapWord v
  | 0x1104 => s.writeReset v
  | 0x1108 => .done { s with cfg := { s.cfg with zHold := bit v 0, zDrive := !s.cfg.done || bit v 0 } }
  | 0x110C => s.writeDet v
  | 0x1110 => s.selectReg (fld v 6 0) 96 fun s => { s with cfg := { s.cfg with seedSel := fld v 6 0 } }
  | 0x1114 => let w := s.commitLo 0x1114 v; .done (w.2.modCtx w.2.selSeed fun c => { c with seedReg := w.1 })
  | 0x1118 => .done (s.stageHi 0x1114 v)
  | 0x111C => s.writeRngMode v
  | 0x1120 => .done { s with cfg := { s.cfg with stashReg := fld v 3 0 } }
  | 0x1124 => .done { s with cfg := { s.cfg with qstale := v &&& 0x7FFFFFFF } }
  | _ => .absent

/-- HST.CTRL (Table 13.10). -/
def State.writeHstCtrl (s : State) (v : W32) : Wr :=
  .done { s with hst := { s.hst with en := bit v 0, sleepEn := bit v 1, halt := s.hst.halt && !bit v 2 } }

/-- Any write of HST.WAKE wakes the block, also out of a sleep that is being entered, and polls at once (R294). -/
def State.wake (s : State) : State :=
  let s := (s.count 0x1A44 1).hang oHost 0 0x63 0x7F 0
  let was := s.hst.sleeping || s.hst.sleepArm
  let s : State := { s with hst := { s.hst with sleeping := false, sleepArm := false, idle := 0 } }
  let s := if was then s.writeShadow false else s
  if s.runs then s.poll else s

/-- The other host registers, while HST.CTRL.EN is 0. -/
def State.writeHstReg (s : State) (off : Nat) (v : W32) : Wr :=
  let ok (f : HostSt → HostSt) : Wr := .done { s with hst := f s.hst }
  let pair (lo : Nat) (mask : W64) (f : HostSt → W64 → HostSt) : Wr :=
    let w := s.commitLo lo v
    .done { w.2 with hst := f w.2.hst (w.1 &&& mask) }
  match off with
  | 0x2008 => ok fun h => { h with idleBells := fld v 7 0 }
  | 0x200C => ok fun h => { h with spasid := v &&& 0x1FFFFF }
  | 0x2010 => pair 0x2010 (~~~0x3F) fun h w => { h with shadow := w }
  | 0x2018 => pair 0x2018 (~~~0x3F) fun h w => { h with adb := w }
  | 0x2020 => pair 0x2020 (~~~0xFFF) fun h w => { h with asq := w }
  | 0x2028 => pair 0x2028 (~~~0xFFF) fun h w => { h with acq := w }
  | 0x2030 => pair 0x2030 (~~~0xFFF) fun h w => { h with evq := w }
  | 0x2038 => pair 0x2038 (~~~0xFFF) fun h w => { h with tlq := w }
  | 0x2014 => .done (s.stageHi 0x2010 v)
  | 0x201C => .done (s.stageHi 0x2018 v)
  | 0x2024 => .done (s.stageHi 0x2020 v)
  | 0x202C => .done (s.stageHi 0x2028 v)
  | 0x2034 => .done (s.stageHi 0x2030 v)
  | 0x203C => .done (s.stageHi 0x2038 v)
  | 0x2040 => if [0, 8, 16, 24].all fun b => decide (6 ≤ fld v (b + 4) b) && decide (fld v (b + 4) b ≤ 16) then ok fun h => { h with rsize := v &&& 0x1F1F1F1F }
      else s.rangeIgnored 0x8102
  | 0x2044 => ok fun h => { h with agen := v.extractLsb' 0 12 }
  | 0x2048 => ok fun h => { h with msixA := v &&& 0x07FF07FF }
  | 0x204C => ok fun h => { h with msixB := v &&& 0x000707FF }
  | _ => .absent

/-- Registers of pages 2 and 3 (R311). -/
def State.writeHost (s : State) (off : Nat) (v : W32) : Wr :=
  if off = 0x2000 then s.writeHstCtrl v
  else if off = 0x3000 then .done s.wake
  else if s.hst.en then (match s.writeHstReg off v with | .absent => .absent | _ => .ignored s)
  else s.writeHstReg off v

/-- BEL.PERIOD (R19, R20). A chip with LINKED = 1 counts as one that takes its Bells from markers, also once it has lost LOCKED
and runs on its own timer (R43), which R20 does not say (DESIGN CHOICE, log entry 75). -/
def State.writePeriod (s : State) (v : W32) : Wr :=
  let n := fld v 26 0
  if s.bel.linked then .ignored s
  else if n < 10000 || n > 100000000 then s.rangeIgnored 0x2006
  else .done { s with bel := { s.bel with periodReg := n } }

/-- MKT.CTXQUOTA (R90). -/
def State.writeQuota (s : State) (v : W32) : Wr :=
  let i := s.selCtx
  let n := fld v 16 0
  let c := s.ctx i
  let mine := if c.slice.isSome then max c.quota n else n
  if s.quotaSum - max c.quota c.quotaReg + mine > 65536 then .ignored (s.noteCtx 0x3109 i)
  else .done (s.modCtx i fun c => { c with quotaReg := n, quota := if c.slice.isSome then c.quota else n })

/-- Registers of pages 4 and 5. -/
def State.writeBell (s : State) (off : Nat) (v : W32) : Wr :=
  match off with
  | 0x4000 => s.writeBelCtrl v
  | 0x4004 => s.writePeriod v
  | 0x4008 => .done { s with bel := { s.bel with reserveReg := fld v 15 0 } }
  | 0x400C => .done { s with bel := { s.bel with guardReg := fld v 15 0 } }
  | 0x4010 => .done { s with bel := { s.bel with markerMissed := s.bel.markerMissed && !bit v 4 } }
  | 0x5000 => s.selectReg (fld v 6 0) 96 fun s => { s with mkt := { s.mkt with ctxSel := fld v 6 0 } }
  | 0x5004 => s.writeQuota v
  | 0x5014 => .done { s with mkt := { s.mkt with poolMargin := fld v 16 0 } }
  | 0x5018 => s.selectReg (fld v 3 0) 16 fun s => { s with mkt := { s.mkt with pitSel := fld v 3 0 } }
  | 0x501C => .done (s.modPit s.selMkPit fun p => { p with modeReg := v.extractLsb' 0 3 })
  | 0x5020 => let w := s.commitLo 0x5020 v; .done { w.2 with mkt := { w.2.mkt with swapBaseReg := w.1 &&& ~~~0x7F } }
  | 0x5024 => .done (s.stageHi 0x5020 v)
  | 0x5028 => if fld v 12 0 > 4096 then s.rangeIgnored else .done { s with mkt := { s.mkt with swapCountReg := fld v 12 0 } }
  | _ => .absent

/-- PIT.CTRL.APPLY (R97): the staged mask is installed, and its idle cores take their pitch's mode. An APPLY that is ignored
leaves the staged halves as they were: of 'after every APPLY' and 'leaves the pitch unchanged' the second is followed
(DESIGN CHOICE, log entry 75). -/
def State.applyMask (s : State) : Wr :=
  let p := s.selPit
  let x := s.pit p
  let m : W64 := BitVec.ofNat 64 (x.stagedHi.toNat <<< 32 ||| x.stagedLo.toNat)
  if allPitches.any fun q => q != p && (s.pit q).mask &&& m != 0 then s.rangeIgnored 0x3111
  else if !(s.residents p).isEmpty || x.install.isSome then s.rangeIgnored 0x3112
  else if s.errs.absent.any fun l => m.getLsbD l.val then s.rangeIgnored 0x4041
  else
    let old := s.pitchCores p
    let s := s.modPit p fun x => { x with mask := m, state := if m = 0 then 0 else 1 }
    .done ((old ++ s.pitchCores p).foldl (fun s c => s.modSeq c fun q =>
      if q.inst.isNone && (q.mode == .halt || q.mode == .take) then { q with mode := s.idleMode c } else q) s)

/-- A bandwidth regulator (R100, R101). -/
def State.writeReg (s : State) (v : W32) (f : PitchSt → (Bucket → Bucket) → PitchSt) : Wr :=
  if fld v 15 0 ≠ 0 && fld v 31 16 < 4 then s.rangeIgnored
  else .done (s.modPit s.selPit fun p => f p fun b => { b with reg := v, wrote := true })

/-- COR.BANKFORCE (R136): banks newly forced start up at once. -/
def State.writeBankForce (s : State) (v : W32) : Wr :=
  let m : BitVec 24 := v.extractLsb' 0 24
  .done (s.modCore s.selCore fun k => { k with bankForce := m, bankUp := k.bankUp ||| (m &&& ~~~k.bankOn) })

/-- Registers of pages 6 and 7. -/
def State.writePit (s : State) (off : Nat) (v : W32) : Wr :=
  match off with
  | 0x6000 => s.selectReg (fld v 3 0) 16 fun s => { s with mgmt := { s.mgmt with pitSel := fld v 3 0 } }
  | 0x6004 => .done (s.modPit s.selPit fun p => { p with stagedLo := v })
  | 0x6008 => .done (s.modPit s.selPit fun p => { p with stagedHi := v })
  | 0x600C => if bit v 0 then s.applyMask else .done s
  | 0x6010 => s.writeReg v fun p f => { p with rd := f p.rd }
  | 0x6014 => s.writeReg v fun p f => { p with wr := f p.wr }
  | 0x6018 => s.writeReg v fun p f => { p with tx := f p.tx }
  | 0x601C => .done (s.modPit s.selPit fun p => { p with evictReg := v.extractLsb' 0 9 })
  | 0x7000 => s.selectReg (fld v 6 0) 72 fun s => { s with mgmt := { s.mgmt with corSel := fld v 6 0 } }
  | 0x700C => s.writeBankForce v
  | _ => .absent

/-- LNK.CHIP (R286). -/
def State.writeChip (s : State) (v : W32) : Wr :=
  if allPorts.any (fun p => (s.port p).en) || fld v 7 0 = 0xFF then .ignored s
  else .done { s with mgmt := { s.mgmt with chip := fld v 7 0, bellFwd := v.extractLsb' 8 4 } }

/-- LNK.ROUTE (R286). -/
def State.writeRoute (s : State) (v : W32) : Wr :=
  let n := fld v 2 0
  if 4 ≤ n && n ≤ 6 then .ignored s
  else .done { s with mgmt := { s.mgmt with routes := if n = 7 then s.mgmt.routes.erase s.mgmt.routeSel else s.mgmt.routes.insert s.mgmt.routeSel n } }

/-- Registers of page 8. -/
def State.writeLink (s : State) (off : Nat) (v : W32) : Wr :=
  match off with
  | 0x8000 => s.writeChip v
  | 0x8004 => s.selectReg (fld v 1 0) 4 fun s => { s with mgmt := { s.mgmt with lnkSel := fld v 1 0 } }
  | 0x8008 => s.selectReg (fld v 7 0) 255 fun s => { s with mgmt := { s.mgmt with routeSel := fld v 7 0 } }
  | 0x800C => s.writeRoute v
  | 0x8040 => s.writeLinkCtrl v
  | 0x8048 => if (s.port s.selPort).en then .ignored s else .done (s.modPort s.selPort fun x => { x with laneMap := v })
  | 0x804C => .done (s.modPort s.selPort fun x => { x with phylatReg := v })
  | 0x805C => .done (s.modPort s.selPort fun x => { x with replayReg := v &&& 0xFFFFF })
  | _ => .absent

/-- ERR.LANEMARGIN: a lane's latest margin, and its trigger (R341). -/
def State.writeMargin (s : State) (v : W32) : Wr :=
  let lane := fld v 27 24
  if lane > 8 then s.rangeIgnored else
  let p : LPort := ⟨fld v 29 28 % 4, by omega⟩
  let m := fld v 15 0
  let s := s.modPort p fun x => { x with margin := x.margin.insert lane m }
  .done (if m < fld s.errs.thrLane 31 16 then s.wearLane p lane else s)

/-- ERR.RMAP: a map that waits for an address is written (R347). -/
def State.writeRmap (s : State) (v : W32) : Wr :=
  let w := s.commitLo 0x9028 v
  let s : State := { w.2 with errs := { w.2.errs with rmap := w.1 &&& ~~~0xFFF } }
  .done (if s.errs.dirty && s.errs.rmap != 0 then s.writeMap else s)

/-- Registers of page 9 (R348). -/
def State.writeErr (s : State) (off : Nat) (v : W32) : Wr :=
  let ok (f : ErrSt → ErrSt) : Wr := .done { s with errs := f s.errs }
  match off with
  | 0x9000 => ok fun e => { e with ctrl := v.extractLsb' 0 3 }
  | 0x9008 => if fld v 4 0 < 10 || fld v 4 0 > 18 then s.rangeIgnored else ok fun e => { e with force := fld v 4 0 }
  | 0x900C => if fld v 15 0 = 0 then s.rangeIgnored else ok fun e => { e with selftest := fld v 15 0 }
  | 0x9010 => if v = 0 then s.rangeIgnored else ok fun e => { e with cewinReg := v }
  | 0x9014 => ok fun e => { e with thrScrReg := v }
  | 0x9018 => ok fun e => { e with thrMktReg := v.extractLsb' 0 16 }
  | 0x901C => ok fun e => { e with thrLaneReg := v }
  | 0x9020 => s.writeMargin v
  | 0x9024 => ok fun e => { e with agingReg := v.extractLsb' 0 16 }
  | 0x9028 => s.writeRmap v
  | 0x902C => .done (s.stageHi 0x9028 v)
  | _ => .absent

/-- Every global counter is cleared (R361). -/
def State.clearGlobals (s : State) : State :=
  { s with
    cnt := { s.cnt with
      globals := []
      cyc := s.cnt.cyc.mapFinIdx fun i y h => y.clear ((s.core ⟨i, h⟩).counters.get 0) ((s.core ⟨i, h⟩).counters.get 19) }
    cores := s.cores.map fun k => { k with counters := Tab.fill 32 0 } }

/-- CNT.CTRL (R361). -/
def State.writeCntCtrl (s : State) (v : W32) : Wr :=
  let s : State := { s with cnt := { s.cnt with detail := bit v 0 } }
  .done (if bit v 1 then s.clearGlobals else s)

/-- Registers of pages 10 and 11. -/
def State.writeDbg (s : State) (off : Nat) (v : W32) : Wr :=
  let ok (f : TrcSt → TrcSt) : Wr := .done { s with trc := f s.trc }
  match off with
  | 0xA000 => s.writeDbgCtrl v
  | 0xA100 => s.writeCntCtrl v
  | 0xA104 => s.selectReg (if bit v 31 then 0 else fld v 22 16) 96 fun s => { s with cnt := { s.cnt with sel := v &&& 0x807FFFFF } }
  | 0xB000 => s.writeTrcCtrl v
  | 0xB004 => ok fun t => { t with kinds := v.extractLsb' 1 12 ||| 1 }
  | 0xB008 => if fld v 2 0 ≥ 5 then .ignored s else ok fun t => { t with src := fld v 2 0 }
  | 0xB00C => ok fun t => { t with val := v }
  | 0xB010 => ok fun t => { t with post := fld v 23 0 }
  | 0xB014 => if fld v 4 0 = 0 || (6 ≤ fld v 4 0 && fld v 4 0 ≤ 20) then ok fun t => { t with pcsamp := fld v 4 0 } else s.rangeIgnored
  | 0xB018 => if fld v 3 0 = 0 || (4 ≤ fld v 3 0 && fld v 3 0 ≤ 12) then ok fun t => { t with linksamp := fld v 3 0 } else s.rangeIgnored
  | _ => .absent

/-- An array clock of the stated range. -/
def clockOk (n : Nat) : Bool := decide (12 ≤ n) && decide (n ≤ 30)

/-- PWR.MUX (R378): FORCE_B switches to VDD_CTL_B whatever A's level. -/
def State.writeMux (s : State) (v : W32) : Wr :=
  let go := bit v 1 && !s.pwr.onB
  let s : State := { s with pwr := { s.pwr with autoReturn := bit v 0, forceB := bit v 1, onB := s.pwr.onB || bit v 1 } }
  .done (if go then (s.hang oCtl 0 0x72 0x7F s.ctlData).note 0x9001 else s)

/-- Registers of page 12 (R395). -/
def State.writePwr (s : State) (off : Nat) (v : W32) : Wr :=
  let n := fld v 4 0
  match off with
  | 0xC008 => if !clockOk n then s.rangeIgnored else .done ({ s with pwr := { s.pwr with target := n } } : State).retarget
  | 0xC00C => if n ≠ 0 && !clockOk n then s.rangeIgnored else .done ({ s with pwr := { s.pwr with throttle := n } } : State).retarget
  | 0xC010 => if !clockOk n then s.rangeIgnored else .done { s with pwr := { s.pwr with emergReg := n } }
  | 0xC014 =>
    if !clockOk (fld v 20 16) || fld v 7 0 < 60 || fld v 7 0 > 104 then s.rangeIgnored
    else .done { s with pwr := { s.pwr with softClkReg := fld v 20 16, tsoftReg := fld v 7 0 } }
  | 0xC018 => s.writeMux v
  | _ => .absent

/-- Registers without a write of their own: every field is RO. -/
def State.roReg (s : State) (off : Nat) : Bool := (s.regRead off).isSome

/-- A write at an offset. -/
def State.regWrite (s : State) (off : Nat) (v : W32) : Wr :=
  let w :=
    match off / 0x1000 with
    | 1 => s.writeCfg off v
    | 2 => s.writeHost off v
    | 3 => s.writeHost off v
    | 4 => s.writeBell off v
    | 5 => s.writeBell off v
    | 6 => s.writePit off v
    | 7 => s.writePit off v
    | 8 => s.writeLink off v
    | 9 => s.writeErr off v
    | 10 => s.writeDbg off v
    | 11 => s.writeDbg off v
    | 12 => s.writePwr off v
    | _ => .absent
  match w with
  | .absent => if s.roReg off then .ignored s else .absent
  | w => w

/-- The write block of start-up (R385): until S7 the port writes PER.CTRL, PER.PUSH and PER.RMAPPUSH alone. -/
def State.writeOpen (s : State) (off : Nat) : Bool := s.cfg.done || off == 0x1004 || off == 0x1008 || off == 0x100C

/-- A write through the management slave port (R406). -/
def State.portWrite (s : State) (off : Nat) (v : W32) : State :=
  if s.cfg.stage = 0 then s else
  match s.regWrite off v with
  | .absent => { s with mgmt := { s.mgmt with err := true } }
  | w =>
    let t := if s.writeOpen off then w.after s else s
    { t with mgmt := { t.mgmt with err := false } }

/-! ### The commands -/

def execWake (v : W32) (s : State) : Host.Outcome State Fault Refusal := s.run fun s => s.portWrite 0x3000 v
def execAdminResume (v : W32) (s : State) : Host.Outcome State Fault Refusal := s.run fun s => s.portWrite 0x2000 v
def execBellEnable (v : W32) (s : State) : Host.Outcome State Fault Refusal := s.run fun s => s.portWrite 0x4000 v
def execBelPeriodWrite (v : W32) (s : State) : Host.Outcome State Fault Refusal := s.run fun s => s.portWrite 0x4004 v
def execCtxQuotaWrite (v : W32) (s : State) : Host.Outcome State Fault Refusal := s.run fun s => s.portWrite 0x5004 v
def execApplyMask (v : W32) (s : State) : Host.Outcome State Fault Refusal := s.run fun s => s.portWrite 0x600C v
def execRegulatorWrite (off : W16) (v : W32) (s : State) : Host.Outcome State Fault Refusal := s.run fun s => s.portWrite (regOff off) v
def execBankForceWrite (v : W32) (s : State) : Host.Outcome State Fault Refusal := s.run fun s => s.portWrite 0x700C v
def execDetWrite (off : W16) (v : W32) (s : State) : Host.Outcome State Fault Refusal := s.run fun s => s.portWrite (regOff off) v
def execResetBlock (v : W32) (s : State) : Host.Outcome State Fault Refusal := s.run fun s => s.portWrite 0x1104 v
def execResetPitch (v : W32) (s : State) : Host.Outcome State Fault Refusal := s.run fun s => s.portWrite 0x1104 v
def execResetContext (v : W32) (s : State) : Host.Outcome State Fault Refusal := s.run fun s => s.portWrite 0x1104 v
def execRetrain (v : W32) (s : State) : Host.Outcome State Fault Refusal := s.run fun s => s.portWrite 0x8040 v
def execLinkEnable (v : W32) (s : State) : Host.Outcome State Fault Refusal := s.run fun s => s.portWrite 0x8040 v
def execClearCounters (v : W32) (s : State) : Host.Outcome State Fault Refusal := s.run fun s => s.portWrite 0xA100 v
def execTraceControlWrite (v : W32) (s : State) : Host.Outcome State Fault Refusal := s.run fun s => s.portWrite 0xB000 v
def execForceB (v : W32) (s : State) : Host.Outcome State Fault Refusal := s.run fun s => s.portWrite 0xC018 v
def execThrottleRequest (off : W16) (v : W32) (s : State) : Host.Outcome State Fault Refusal := s.run fun s => s.portWrite (regOff off) v
def execPush (v : W32) (s : State) : Host.Outcome State Fault Refusal := s.run fun s => s.portWrite 0x1008 v
def execPushDone (v : W32) (s : State) : Host.Outcome State Fault Refusal := s.run fun s => s.portWrite 0x1004 v
def execRmapPush (v : W32) (s : State) : Host.Outcome State Fault Refusal := s.run fun s => s.portWrite 0x100C v
def execRmapDone (v : W32) (s : State) : Host.Outcome State Fault Refusal := s.run fun s => s.portWrite 0x1004 v
def execLinkChipWrite (v : W32) (s : State) : Host.Outcome State Fault Refusal := s.run fun s => s.portWrite 0x8000 v
def execSelectorWrite (off : W16) (v : W32) (s : State) : Host.Outcome State Fault Refusal := s.run fun s => s.portWrite (regOff off) v
def execPairLoRead (off : W16) (s : State) : Host.Outcome State Fault Refusal := s.run fun s => s.portRead off
def execRegisterWrite (off : W16) (v : W32) (s : State) : Host.Outcome State Fault Refusal := s.run fun s => s.portWrite (regOff off) v

def execStopAtBell (src : ReqSrc) (s : State) : Host.Outcome State Fault Refusal :=
  s.run fun s => match src with | .desc r => s.stopAtBell r | .reg v => s.portWrite 0x4000 v
def execResumeBell (src : ReqSrc) (s : State) : Host.Outcome State Fault Refusal :=
  s.run fun s => match src with | .desc r => s.resumeBell r | .reg v => s.portWrite 0x4000 v
def execStopNow (src : ReqSrc) (s : State) : Host.Outcome State Fault Refusal :=
  s.run fun s => match src with | .desc r => s.stopNowDesc r | .reg v => s.portWrite 0xA000 v
def execResumeNow (src : ReqSrc) (s : State) : Host.Outcome State Fault Refusal :=
  s.run fun s => match src with | .desc r => s.resumeNowDesc r | .reg v => s.portWrite 0xA000 v
def execTrigger (src : ReqSrc) (s : State) : Host.Outcome State Fault Refusal :=
  s.run fun s => match src with | .desc r => s.triggerDesc r | .reg v => s.portWrite 0xB000 v

end Sys2Proof.Machine
end

