-- ==== Sys2Proof/Machine/Startup.lean ====
section
/-! DEFINITION. Sys2Proof/Machine/Startup.lean: start-up (R385 to R391, R407) and the test wrapper (R408, R409). -/

namespace Sys2Proof.Machine

/-- A stage of start-up ends and the next begins. -/
def State.toStage (s : State) (n : Nat) : State := { s with cfg := { s.cfg with stage := n, stageAt := s.clk.time } }

/-- The stage in progress, while the wrapper does not hold the block. -/
def State.inStage (s : State) (n : Nat) : Bool := s.cfg.stage == n && !s.cfg.done && !s.wrap.hold

/-- The A-loop relocks after an unlock (R380): in service, or in the S6 of a soft reset, during which it unlocked. -/
def State.relocking (s : State) : Bool :=
  !s.pwr.alock && s.pwr.gated && s.pwr.aryPg && s.pwr.memPg && (s.cfg.done || (s.cfg.stage == 6 && decide (s.cfg.stageAt ≤ s.pwr.relockAt)))

/-- LOOPS_LOCKED: the T-loop and F-loop after a cold reset, or the A-loop after an unlock (R379, R380). No row of the table tells the
levels of VDD_CTL_B and of the inputs ARY_PG and MEM_PG before a row says that one of them falls: from S1, where the registers first
read, they are good (DESIGN CHOICE, log entry 84). -/
def State.loopsLocked (s : State) (e : LockEvent) : State :=
  match e with
  | .startUp => if s.inStage 0 then ({ s with pwr := { s.pwr with tlock := true, flock := true, bOk := true, aryPg := true, memPg := true } } : State).toStage 1 else s
  | .aLoop =>
    if !s.relocking then s
    else ({ s with pwr := { s.pwr with alock := true, gated := false } } : State).retarget

/-! ### Stage S2: the fuses (R407) -/

/-- A hard repair-map entry of the fuses is kept, or ignored and reported. -/
def State.hardEntry (s : State) (bytes : List Byte) (i : Nat) : State :=
  let e := le64 bytes (0xA0 + 8 * i)
  if entryBad e then s.note 0xA211 (i ||| 1 <<< 16) else { s with errs := { s.errs with hard := s.errs.hard ++ [e] } }

/-- n bytes of the fuse map at an offset. -/
def fuseBytes (bytes : List Byte) (off n : Nat) : List Byte := (List.range n).map fun i => (bytes[off + i]?).getD 0

/-- FUSE_READ: S1 is over when S2 reads the fuses; the whole map is read, and stage S3 begins. Reserved bits of the map (Table 18.5:
0x010 [31:5], 0x016, 0x5A0) are not looked at, whatever their values: R6 lets none but 0 stand and R407 gives no check of them and no
code (DESIGN CHOICE, log entry 84). -/
def State.fuseRead (s : State) (bytes : List Byte) : State :=
  if !s.inStage 1 && !s.inStage 2 then s else
  let s := if s.inStage 1 then s.advanceTo (s.cfg.stageAt + ramsTime) else s
  let w := le32 bytes 0x10
  let n := (le16 bytes 0x14).toNat
  let s : State := { s with fuse := {
    devId := fuseBytes bytes 0 16, revoke := w.extractLsb' 0 4, testLock := bit w 4, keys := (List.range 4).map fun k => fuseBytes bytes (0x20 + 32 * k) 32 } }
  ((List.range (if n > 160 then 0 else n)).foldl (fun s i => s.hardEntry bytes i) s).toStage 3

/-! ### Stage S3: the personality (R388 to R390) -/

/-- The sections of a plaintext: type and body; none where a header has a reserved bit set, or a body does not fit. Fuel. -/
def perSections : Nat → List Byte → Option (List (Nat × List Byte))
  | 0, _ => none
  | n + 1, bs =>
    if bs.isEmpty then some [] else
    let len := (le32 bs 4).toNat
    if bs.length < 8 || le16 bs 2 ≠ 0 || len % 4 ≠ 0 || bs.length < 8 + len then none
    else (perSections n (bs.drop (8 + len))).map fun l => ((le16 bs 0).toNat, (bs.drop 8).take len) :: l

/-- The 32-bit words of a body. -/
def wordsOf (bs : List Byte) : List W32 := (List.range (bs.length / 4)).map fun i => le32 bs (4 * i)

/-- A VID table lies within 60 to 140 and does not fall as the clock rises. -/
def vidsOk : List Nat → Bool
  | [] => true
  | [v] => decide (60 ≤ v) && decide (v ≤ 140)
  | v :: w :: t => decide (60 ≤ v) && decide (v ≤ w) && vidsOk (w :: t)

/-- The VIDs of a CALIBRATION body. -/
def calVids (b : List Byte) : List Nat := ((b.drop 32).take 19).map (·.toNat)

/-- A section of a reserved TYPE, a wrong LEN, or with a reserved bit set (Table 17.8). -/
def sectionBad (x : Nat × List Byte) : Bool :=
  match x.1 with
  | 1 => x.2.length % 8 ≠ 0
  | 2 => (wordsOf x.2).any fun w => w &&& ~~~0x03FF030F != 0
  | 3 => x.2.length ≠ 588 || (x.2[51]?).getD 0 ≠ 0 || !vidsOk (calVids x.2)
  | 4 => x.2.length ≠ 4 || le32 x.2 0 &&& ~~~1 ≠ 0
  | _ => true

/-- The body of a section, empty where there is none. -/
def bodyOf (l : List (Nat × List Byte)) (n : Nat) : Option (List Byte) := (l.find? fun x => x.1 == n).map (·.2)

/-- The presets of a PRESETS body: offset and value. -/
def presetsOf (b : List Byte) : List (Nat × W32) := (List.range (b.length / 8)).map fun i => ((le32 b (8 * i)).toNat, le32 b (8 * i + 4))

/-- A preset that its prefix or its EN bit forbids (Table 17.9, REASON 6). -/
def presetBarred (x : Nat × W32) : Bool :=
  decide (x.1 < 0x1100) || x.1 / 0x1000 == 2 || x.1 / 0x1000 == 3 || x.1 == 0xA000 || x.1 == 0xA004 || x.1 == 0x1104 ||
  ((x.1 == 0x4000 || x.1 == 0x8040 || x.1 == 0xB000) && bit x.2 0)

/-- The presets written in order; none where one names no register, or the register's rules ignore it (R420). -/
def State.tryPresets (s : State) : List (Nat × W32) → Option State
  | [] => some s
  | x :: t => if presetBarred x then none else match s.regWrite x.1 x.2 with | .done s => s.tryPresets t | _ => none

/-- The presets applied in order. -/
def State.putPresets (s : State) (l : List (Nat × W32)) : State := l.foldl (fun s x => (s.regWrite x.1 x.2).after s) s

/-- The steps of a STARTUP body. -/
def stepsOf (b : List Byte) : List OrderStep := (wordsOf b).map fun w => { domain := fld w 3 0, action := fld w 9 8, delay := fld w 25 16 }

/-- No SETRESET comes after a WRITE (R386). -/
def writesLast : List OrderStep → Bool
  | [] => true
  | x :: t => (x.action != 3 || t.all fun y => y.action != 2) && writesLast t

/-- The three constraints of R386. -/
def orderOk (l : List OrderStep) : Bool :=
  l.length == 48 && (List.range 12).all (fun d => (l.filter fun x => x.domain == d).map (·.action) == [0, 1, 2, 3]) &&
  writesLast l && l.all (fun x => decide (x.delay ≤ 1000)) && decide (natSum (l.map (·.delay)) ≤ 10000)

/-- The header and ciphertext of an image: FORMAT fails on none (Table 17.9, REASON 1). -/
def perImage (bs : List Byte) : Option (List Byte × List Byte) :=
  let len := (le32 bs 8).toNat
  if bs.length < 64 || le32 bs 0 ≠ 0x5245505A || le16 bs 4 ≠ 0x0100 || fld (le16 bs 6) 15 2 ≠ 0 || len < 16 || len > 65536 || len % 4 ≠ 0 ||
    !zeroBytes bs 48 64 || bs.length < 64 + len then none
  else some (bs.take 64, (bs.drop 64).take len)

/-- The sections of an image that has passed REASON 1 to 7, or the first REASON that fails. -/
def State.perCheck (s : State) (image : Option (List Byte)) : Except Nat (W64 × Nat × List (Nat × List Byte)) :=
  match image.bind perImage with
  | none => .error 1
  | some (hd, c) =>
    let slot := fld (le16 hd 6) 1 0
    let key := (s.fuse.keys[slot]?).getD []
    if key.all (· == 0) || s.fuse.revoke.getLsbD slot then .error 2 else
    let iv := (hd.drop 12).take 12
    if gcmTag key iv (hd.take 24 ++ hd.drop 40) c ≠ (hd.drop 24).take 16 then .error 3 else
    let p := gcmStream key iv c
    let body := p.take (p.length - 4)
    if crc32c body ≠ le32 p (p.length - 4) then .error 4 else
    match perSections 20000 body with
    | none => .error 5
    | some l =>
      if l.any sectionBad || (l.map (·.1)).eraseDups.length ≠ l.length then .error 5
      else if (s.tryPresets (presetsOf ((bodyOf l 1).getD []))).isNone then .error 6
      else if (match bodyOf l 2 with | some b => !orderOk (stepsOf b) | none => false) then .error 7
      else .ok (le64 hd 40, slot, l)

/-- The CALIBRATION section in force. -/
def CfgSt.calibrate (g : CfgSt) (b : List Byte) : CfgSt :=
  { g with
    energy := (wordsOf (b.take 32)).map (·.toNat), vids := calVids b
    offsets := ((b.drop 52).take 16).map (·.toInt), refs := wordsOf (b.drop 68) }

/-- The whole image is applied in one step: calibration, flags, order and presets. -/
def State.perApply (s : State) (seq : W64) (slot : Nat) (l : List (Nat × List Byte)) : State :=
  let g := match bodyOf l 3 with | some b => s.cfg.calibrate b | none => s.cfg
  let g : CfgSt := { g with
    perSeq := seq, keySlot := slot, debug := (match bodyOf l 4 with | some b => bit (le32 b 0) 0 | none => false)
    order := (bodyOf l 2).map stepsOf }
  ({ s with cfg := g } : State).putPresets (presetsOf ((bodyOf l 1).getD []))

/-- The factory defaults (R390): what S3 finds is at reset already; the self-test has no references. -/
def State.perFallback (s : State) (reason : Nat) : State :=
  let s : State := { s with
    cfg := { s.cfg with fallback := true, reason := reason }
    errs := { s.errs with ctrl := s.errs.ctrl &&& 3 } }
  s.note 0xA101 reason

/-- Stage S3 ends. -/
def State.perEnd (s : State) : State := ({ s with cfg := { s.cfg with perDone := true } } : State).toStage 4

/-- PERSONALITY_LOAD: the image comes from the NV cells, or from the pushed words once PUSH_DONE is written. -/
def State.personalityLoad (s : State) (nv : Option (List Byte)) : State :=
  if !s.inStage 3 || (s.straps.perSrc && !s.cfg.pushDone) then s else
  match s.perCheck (if s.straps.perSrc then some s.cfg.push else nv) with
  | .error n => (s.perFallback n).perEnd
  | .ok (seq, slot, l) => (s.perApply seq slot l).perEnd

/-- PUSH_TIMEOUT: 1 s from the start of S3 without PUSH_DONE. -/
def State.pushTimeout (s : State) : State :=
  if !s.inStage 3 || !s.straps.perSrc || s.cfg.pushDone then s
  else ((s.advanceTo (s.cfg.stageAt + 1000000000)).perFallback 8).perEnd

/-! ### Stage S4: the repair maps (R346) -/

/-- The SEQ and entries of a pushed soft map that passes R346, or none. -/
def State.softMap (s : State) (bs : List Byte) : Option (W64 × List W64) :=
  let n := (le16 bs 6).toNat
  let seq := le64 bs 8
  let body := (bs.drop 64).take (8 * n)
  let es := (List.range n).map fun i => le64 bs (64 + 8 * i)
  if bs.length < 64 + 8 * n || bs.take 48 ≠ mapHeader n seq ((bs.drop 16).take 12) s.fuse.devId || n > 4096 then none
  else if gcmTag ((s.fuse.keys[s.cfg.keySlot]?).getD []) ((bs.drop 16).take 12) (bs.take 48 ++ body) [] ≠ (bs.drop 48).take 16 then none
  else if es.any fun e => entryBad e || s.errs.hard.any (entryMeets e) then none
  else some (seq, es)

/-- The pushed soft map is taken: rejected whole, so that the block runs on the hard map alone (R346), or in force where none is or
its SEQ is higher (R390). -/
def State.takeSoft (s : State) (bs : List Byte) : State :=
  if bs.isEmpty then s else
  match s.softMap bs with
  | none => ({ s with cfg := { s.cfg with rmapSoft := false }, errs := { s.errs with soft := [] } } : State).note 0xA211
  | some (seq, es) =>
    if (s.cfg.rmapSoft || !s.errs.soft.isEmpty) && !s.errs.softSeq.ult seq then s
    else { s with cfg := { s.cfg with rmapSoft := true }, errs := { s.errs with soft := es, softSeq := seq } }

/-- Logical cores that no physical core serves are absent. -/
def State.findAbsent (s : State) : State :=
  { s with errs := { s.errs with absent := (List.finRange 64).filter fun l => !allCores.any fun c => (s.core c).lcore == some l } }

/-- The hard map and then the soft map are applied, in entry order; stage S5 begins. -/
def State.applyMaps (s : State) : State :=
  (((s.errs.hard ++ s.errs.soft).foldl State.applyEntry s).findAbsent).toStage 5

/-- RMAP_WAIT: with the strap set the stage waits for RMAP_DONE. -/
def State.rmapWait (s : State) : State :=
  if !s.inStage 4 || (s.straps.rmapWait && !s.cfg.rmapDone) then s
  else (if s.cfg.rmapDone then s.takeSoft s.cfg.rmapPush else s).applyMaps

/-- RMAP_WAIT_TIMEOUT: 1 s into S4 without RMAP_DONE. -/
def State.rmapWaitTimeout (s : State) : State :=
  if !s.inStage 4 || !s.straps.rmapWait || s.cfg.rmapDone then s
  else (s.advanceTo (s.cfg.stageAt + 1000000000)).applyMaps

/-! ### Stages S5 to S7 -/

/-- SUPPLY_STAGE: ARY_PG and MEM_PG are 1, the VID of 1.2 GHz is written and ARY_VOK answers. -/
def State.supplyStage (s : State) : State :=
  if !s.inStage 5 then s else
  ({ s with pwr := { s.pwr with aryPg := true, memPg := true, vid := s.vidOf 12, vok := true, aclk := 12, goal := 12, alock := false, trans := none } } :
    State).toStage 6

/-- The factory start-up order (R386). -/
def factoryOrder : List OrderStep :=
  (List.range 8).flatMap (fun y => [⟨y, 0, 0⟩, ⟨y, 1, 0⟩, ⟨y, 2, 5⟩]) ++ [8, 9, 10, 11].flatMap (fun d => [⟨d, 0, 0⟩, ⟨d, 1, 0⟩, ⟨d, 2, 0⟩]) ++
  (List.range 12).map fun d => ⟨d, 3, if d = 11 then 1 else 0⟩

/-- What an action does to its domain. -/
def Domain.act (d : Domain) (action : Nat) : Domain :=
  match action with
  | 0 => { d with lock := true }
  | 1 => { d with unparked := true }
  | 2 => { d with released := true }
  | _ => { d with write := true }

/-- A step of the start-up order, and the delay after it. -/
def State.orderStep (s : State) (x : OrderStep) : State :=
  let s : State := { s with cfg := { s.cfg with domains := s.cfg.domains.putN x.domain (((s.cfg.domains.at? x.domain).getD {}).act x.action) } }
  s.advanceTo (s.clk.time + 1000 * x.delay)

/-- STARTUP_ORDER: the steps of S6 in list order; the first LOCK of a mesh row waits for the A-loop at 1.2 GHz, from whatever clock a
block soft reset found, whose change it ends (R386). The ports that a lost supply had parked are open again. -/
def State.startupOrder (s : State) : State :=
  if !s.inStage 6 || !s.pwr.aryPg || !s.pwr.memPg then s else
  let s := ((s.cfg.order.getD factoryOrder).foldl State.orderStep s).openPorts
  { s with pwr := { s.pwr with alock := true, gated := false, aclk := 12, goal := 12, vid := s.vidOf 12, trans := none } }

/-- STARTUP_DONE: stage S7; ZREADY is released unless HOLD is 1, and the array clock is raised towards its target. -/
def State.startupDone (s : State) : State :=
  if !s.inStage 6 || !s.cfg.domains.toList.all (·.write) then s else
  let s := s.toStage 7
  ({ s with cfg := { s.cfg with done := true, zDrive := s.cfg.zHold } } : State).retarget

/-- ZREADY_CHANGE: the filtered level (R387). -/
def State.zreadyChange (s : State) (level : Bool) : State :=
  if !s.pwr.flock || (level && s.cfg.zDrive) then s else { s with cfg := { s.cfg with zIn := level } }

/-! ### The test wrapper (R408, R409) -/

/-- UPDATE_WR: a reserved code, and INTEST and SCAN under TEST_LOCK, select BYPASS; codes 1 to 5 hold the block as in a cold
reset until PWRON_RST_N is pulsed. The boundary register takes what has been shifted into it. -/
def State.updateWr (s : State) (u : WrUpdate) : State :=
  let c : BitVec 4 := if u.code.toNat ≥ 7 || (s.fuse.testLock && (u.code == 2 || u.code == 4)) then 0 else u.code
  let w : WrapSt := { s.wrap with wir := c, cells := u.cells ++ s.wrap.cells }
  if c = 0 || c = 6 then { s with wrap := w } else
  let f := s.fresh
  { f with straps := s.straps, fuse := { f.fuse with testLock := s.fuse.testLock }, wrap := { f.wrap with wir := c, hold := true, cells := w.cells } }

/-- MBIST_DONE: the results are captured. -/
def State.mbistDone (s : State) (res : BitVec 80) : State :=
  if s.wrap.hold && s.wrap.wir = 5 then { s with wrap := { s.wrap with mbist := res } } else s

/-! ### The commands -/

def execLoopsLocked (e : LockEvent) (s : State) : Host.Outcome State Fault Refusal := s.run fun s => s.loopsLocked e
def execFuseRead (bytes : List Byte) (s : State) : Host.Outcome State Fault Refusal := .next (s.fuseRead bytes)
def execPersonalityLoad (nv : Option (List Byte)) (s : State) : Host.Outcome State Fault Refusal := s.run fun s => s.personalityLoad nv
def execPushTimeout (s : State) : Host.Outcome State Fault Refusal := s.run fun s => s.pushTimeout
def execRmapWait (s : State) : Host.Outcome State Fault Refusal := s.run fun s => s.rmapWait
def execRmapWaitTimeout (s : State) : Host.Outcome State Fault Refusal := s.run fun s => s.rmapWaitTimeout
def execSupplyStage (s : State) : Host.Outcome State Fault Refusal := s.run fun s => s.supplyStage
def execStartupOrder (s : State) : Host.Outcome State Fault Refusal := s.run fun s => s.startupOrder
def execStartupDone (s : State) : Host.Outcome State Fault Refusal := s.run fun s => s.startupDone
def execZreadyChange (level : Bool) (s : State) : Host.Outcome State Fault Refusal := s.run fun s => s.zreadyChange level
def execUpdateWr (u : WrUpdate) (s : State) : Host.Outcome State Fault Refusal := .next (s.updateWr u)
def execMbistDone (res : BitVec 80) (s : State) : Host.Outcome State Fault Refusal := .next (s.mbistDone res)

end Sys2Proof.Machine
end

