-- ==== Sys2Proof/Machine/Power.lean ====
section
/-! DEFINITION. Sys2Proof/Machine/Power.lean: the supplies (R377), the power mux (R378), the clock loops (R380), the array
clock and the throttle requests (R376, R381, R382). -/

namespace Sys2Proof.Machine

/-! ### Supplies -/

/-- A core whose supply is lost: its banks are off and its scratch and tables are gone. -/
def Core.unpowered (k : Core) : Core :=
  { k with
    bankOn := 0, bankUp := 0, weight := [], act := [], psum := [], delta := [], base := [], presA := [], presP := [], tile := none
    tables := Tab.fill 16 none, sweeps := [], queues := Tab.fill 4 [] }

/-- A pitch whose supply is lost. -/
def State.unconfigure (s : State) (p : Pitch) : State :=
  let s := s.endInstall p 0xA305
  (s.dropRoutes p).modPit p fun x => { x with state := if x.mask = 0 then 0 else 1 }

/-- SUPPLY_LOST (R377): in service every output of the core domains is parked, and what the teardowns write to the host waits;
outside service the input alone falls. -/
def State.supplyLost (s : State) (mem : Bool) : State :=
  let s : State := { s with pwr := { s.pwr with aryPg := s.pwr.aryPg && mem, memPg := s.pwr.memPg && !mem } }
  if s.cfg.stage ≠ 7 then s else
  let s : State := { s with
    pwr := { s.pwr with gated := true, alock := false, trans := none, lost := true }
    cfg := { s.cfg with domains := Tab.fill 12 {} } }
  let s := allSlots.foldl State.killSlice s
  let s := allSlots.foldl (fun s i => s.teardown i 0x9008) s
  let s := allPitches.foldl State.unconfigure s
  ({ s with cores := s.cores.map Core.unpowered } : State).settle

/-- SUPPLY_RESTORED: stages S5 to S7 run again (R377), after a block soft reset that came in between too; a wider reset in
progress keeps its scope. Before S5 has run the inputs alone are good again. -/
def State.supplyRestored (s : State) : State :=
  if (s.pwr.aryPg && s.pwr.memPg) || s.inStage 0 then s
  else if !(s.cfg.done || s.inStage 6) then { s with pwr := { s.pwr with aryPg := true, memPg := true } }
  else ({ s with cfg := { s.cfg with done := false, scope := if s.cfg.done then .soft else s.cfg.scope }, pwr := { s.pwr with aryPg := true, memPg := true } } : State).toStage 5

/-! ### The power mux -/

/-- A move of the mux: its hang-ring event and its report. -/
def State.muxMoved (s : State) (b : Bool) (code : W16) : State :=
  let s : State := { s with pwr := { s.pwr with onB := b } }
  (s.hang oCtl 0 0x72 0x7F s.ctlData).note code

/-- CTL_SWITCHOVER: A has failed and B is good. -/
def State.ctlSwitchover (s : State) : State :=
  if s.pwr.onB then s else ({ s with pwr := { s.pwr with bOk := true, bLowSaid := false } } : State).muxMoved true 0x9001

/-- CTL_RETURN: A has been good for 1 ms. -/
def State.ctlReturn (s : State) : State :=
  if !s.pwr.onB || !s.pwr.autoReturn || s.pwr.forceB then s else s.muxMoved false 0x9002

/-- CTL_BACKUP_LOW: B has been low for 1 ms while the mux is on A. Each command is a low period of B of its own, before which B had
recovered, and so each is reported once (R378; log entry 83). -/
def State.ctlBackupLow (s : State) : State :=
  if s.pwr.onB then s
  else ({ s with pwr := { s.pwr with bOk := false, bLowSaid := true } } : State).note 0x9003

/-! ### The clock loops -/

/-- The A-loop has lost lock: the array is gated and relocks at the current target, that of a transition whose clock is
already being changed (R380). -/
def State.unlockA (s : State) : State :=
  let p := s.pwr
  let p : PwrSt := match p.trans with
    | some t => if t.waitVok then { p with trans := none, vid := t.oldVid, goal := p.aclk } else { p with trans := none, aclk := t.target, vid := min p.vid (s.vidOf t.target) }
    | none => p
  ({ s with pwr := { p with alock := false, gated := true, relockAt := s.clk.time } } : State).note 0x9004

/-- LOOP_CHECK: one window of 1 µs of a loop (R380). A locked loop loses lock, in start-up as in service; a relock of the A-loop that
has not succeeded in 100 µs is a further failure. -/
def State.loopCheck (s : State) (l : Loop) (ok : Bool) : State :=
  if ok then s else
  match l with
  | .aLoop =>
    if s.pwr.alock then s.unlockA
    else if s.relocking && decide (s.pwr.relockAt + 100000 ≤ s.clk.time) then
      ({ s with pwr := { s.pwr with relockAt := s.clk.time } } : State).note 0x9004
    else s
  | .fLoop => if !s.pwr.flock then s else ({ s with pwr := { s.pwr with flock := false } } : State).note 0x9005 0 |>.fatalError
  | .tLoop => if !s.pwr.tlock then s else ({ s with pwr := { s.pwr with tlock := false } } : State).note 0x9005 1 |>.fatalError

/-! ### The array clock -/

/-- CLOCK_TRANSITION_END: the clock has changed, the array ungates, and a lower VID is written (R376, R381). -/
def State.clockTransitionEnd (s : State) : State :=
  match s.pwr.trans with
  | none => s
  | some t =>
    if t.waitVok then s else
    let s := s.advanceTo (t.since + 1000)
    let s : State := { s with pwr := { s.pwr with aclk := t.target, trans := none, gated := false, vid := min s.pwr.vid (s.vidOf t.target) } }
    (s.hang oCtl 0 0x73 0x7F s.ctlData).retarget

/-- ARY_VOK rises: a raise that waits for it goes on (R376). -/
def State.aryVok (s : State) : State :=
  let s : State := { s with pwr := { s.pwr with vok := true } }
  match s.pwr.trans with
  | some t => if t.waitVok then { s with pwr := { s.pwr with gated := true, trans := some { t with waitVok := false, since := s.clk.time } } } else s
  | none => s

/-- VID_TIMEOUT: 50 µs of a raise without ARY_VOK (R376). -/
def State.vidTimeout (s : State) : State :=
  match s.pwr.trans with
  | none => s
  | some t =>
    if !t.waitVok then s else
    let s := s.advanceTo (t.since + 50000)
    let asked := s.pwr.vid
    (({ s with pwr := { s.pwr with trans := none, vid := t.oldVid } } : State).note 0x9006 asked).retarget

/-! ### Throttle requests (Table 17.4) -/

/-- EMERGENCY_REQUEST: PWR_EMERG_N, or ARY_VOK outside a change, raises a request or withdraws it. -/
def State.emergencyRequest (s : State) (src : EmergSrc) (raised : Bool) : State :=
  match src with
  | .pin => ({ s with pwr := { s.pwr with emergPin := if raised then s.pwr.emergPin.or (some s.pwr.emergReg) else none } } : State).retarget
  | .vok =>
    if raised && s.pwr.trans.isSome then s
    else ({ s with pwr := { s.pwr with emergVok := raised, vok := !raised } } : State).retarget

/-- The time since which a request's withdrawal condition has held. -/
def lowSince (low : Bool) (old : Option Nat) (now : Nat) : Option Nat := if low then old.or (some now) else none

/-- A condition has held for 1 ms. -/
def heldMs (since : Option Nat) (now : Nat) : Bool := match since with | some t => decide (t + 1000000 ≤ now) | none => false

/-- The hottest junction in whole degrees, 0 to 255: each sensor, in quarter degrees, with its offset. -/
def hottest (raw : List (BitVec 16)) (offsets : List Int) : Nat :=
  let l := raw.zipIdx.map fun x => x.1.toInt + (offsets[x.2]?).getD 0
  min 255 (l.foldl max (l.headD 0) / 4).toNat

/-- THERMAL_READING: the sensors are read, and the thermal requests updated; the limits as written come into force. -/
def State.thermalReading (s : State) (raw : List (BitVec 16)) : State :=
  if s.cfg.stage = 0 then s else
  let t := hottest raw s.cfg.offsets
  let now := s.clk.time
  let p : PwrSt := { s.pwr with temp := t, softClk := s.pwr.softClkReg, tsoft := s.pwr.tsoftReg }
  let hot := decide (p.tsoft ≤ t)
  let sl := lowSince (decide (t + 5 < p.tsoft)) p.softLow now
  let tl := lowSince (decide (t < 100)) p.thermLow now
  let said := hot && !p.soft
  let s : State := { s with pwr := { p with
    softLow := sl, thermLow := tl, soft := hot || (p.soft && !heldMs sl now), emergTherm := decide (105 ≤ t) || (p.emergTherm && !heldMs tl now) } }
  (if said then s.note 0x9007 t else s).retarget

/-! ### The commands -/

def execSupplyLost (mem : Bool) (s : State) : Host.Outcome State Fault Refusal := s.run fun s => s.supplyLost mem
def execSupplyRestored (s : State) : Host.Outcome State Fault Refusal := s.run fun s => s.supplyRestored
def execCtlSwitchover (s : State) : Host.Outcome State Fault Refusal := s.run fun s => s.ctlSwitchover
def execCtlReturn (s : State) : Host.Outcome State Fault Refusal := s.run fun s => s.ctlReturn
def execCtlBackupLow (s : State) : Host.Outcome State Fault Refusal := s.run fun s => s.ctlBackupLow
def execLoopCheck (l : Loop) (ok : Bool) (s : State) : Host.Outcome State Fault Refusal := s.run fun s => s.loopCheck l ok
def execClockTransitionEnd (s : State) : Host.Outcome State Fault Refusal := s.run fun s => s.clockTransitionEnd
def execAryVok (s : State) : Host.Outcome State Fault Refusal := s.run fun s => s.aryVok
def execVidTimeout (s : State) : Host.Outcome State Fault Refusal := s.run fun s => s.vidTimeout
def execEmergencyRequest (src : EmergSrc) (raised : Bool) (s : State) : Host.Outcome State Fault Refusal := s.run fun s => s.emergencyRequest src raised
def execThermalReading (raw : List (BitVec 16)) (s : State) : Host.Outcome State Fault Refusal := s.run fun s => s.thermalReading raw

end Sys2Proof.Machine
end

