-- ==== Sys2Proof/Machine/TracePort.lean ====
section
/-! DEFINITION. Sys2Proof/Machine/TracePort.lean: packets, sync records, PC samples and the trace port (R366, R367, R370). -/

namespace Sys2Proof.Machine

/-- TRACE_PACKET_CLOSE: 1,024 ns after the open packet's first record. -/
def State.tracePacketClose (s : State) : State :=
  if !s.trc.en || s.trc.packet.isEmpty || s.trc.heldPkt.isSome then s else (s.advanceTo (s.trc.firstAt + 1024)).traceClose

/-- TRACE_SYNC: the record with the full time-stamp, 2^31 ns after the one before it (R326). The time-stamp goes on while the
block is stopped, and so do these records. -/
def State.traceSync (s : State) : State := if s.trc.en then (s.advanceTo (s.trc.syncAt + 2 ^ 31)).traceSyncRecord else s

/-- The general registers that an instruction word names, and waits for (R210). -/
def namedRegs (v : W32) : List Nat :=
  let w : BitVec 26 := v.extractLsb' 0 26
  match fld v 31 26 with
  | 0x01 => [fD w, fA w, fB w]
  | 0x02 => [fD w, fA w]
  | 0x03 => [fD w, fA w]
  | 0x04 => [fD w, fA w]
  | 0x05 => [fD w, fA w]
  | 0x13 => [fA w]
  | 0x14 => [fSB w]
  | 0x16 => []
  | 0x17 => []
  | 0x3A => if bit w 11 then [fSB w] else []
  | 0x3B => []
  | 0x3C => []
  | 0x3D => if fld w 2 0 = 2 then [fA w] else []
  | 0x3E => []
  | op => if 0x20 ≤ op then [2 * fld w 13 10, 2 * fld w 13 10 + 1]
      else if (0x08 ≤ op && op ≤ 0x0D) || op == 0x0F || op == 0x12 then [fD w, fA w] else [fD w]

/-- The stall state of a running sequencer (Table 16.11). -/
def State.runStall (s : State) (c : PCore) (x : Inst) : Nat :=
  let k := s.core c
  let v := s.kernelWord c x k.seq.pc.toNat
  let op := fld v 31 26
  if (namedRegs v).any k.seq.pend.contains then 2
  else if op = 0x3A || op = 0x3B then (if s.quiet c x then 0 else 7)
  else if op < 0x20 || 0x39 < op then 0
  else if ((k.queues.at? (unitOf op)).getD []).length ≥ 16 then 3 + unitOf op
  else if !(s.cmdOf c x op (v.extractLsb' 0 26)).writes.isEmpty && (k.cmds.filter fun e => !e.writes.isEmpty).length ≥ 32 then 12
  else 0

/-- The stall state of a core (Table 16.11). -/
def State.stallState (s : State) (c : PCore) : Nat :=
  let q := (s.core c).seq
  match q.inst with
  | none => 10
  | some x =>
    if q.brkDrain || q.brkHalt then 11 else
    match q.mode with
    | .run => s.runStall c x
    | .posting .. => 7
    | .ending _ => 7
    | .recv => 8
    | .wait .. => 9
    | _ => 10

/-- The clocks k fabric cycles later. -/
def ClkSt.later (t : ClkSt) (k : Nat) : ClkSt :=
  let n := 3 * t.time + t.third + 2 * k
  { time := n / 3, third := n % 3, cycle := t.cycle + k }

/-- PCSAMPLE of a core in its next sampling cycle (R367), and the trigger of SRC 4 (R369). -/
def State.pcsample (s : State) (c : PCore) : State :=
  if !s.runs || s.trc.pcsamp < 6 || (s.core c).retired then s else
  let m := 2 ^ s.trc.pcsamp
  let s := s.moveClk (s.clk.later ((m - (s.clk.cycle + 97 * c.val) % m) % m))
  let q := (s.core c).seq
  let at_ := match q.inst with | some x => (x.slot.val, x.task ||| x.gen.toNat <<< 18, x.level) | none => (0x7F, 0, 0)
  let s := if s.trc.en && s.trc.kinds.getLsbD 3 && !s.trc.frozen then s.modCyc c fun y => { y with samples := y.samples + 1 } else s
  let s := s.trace 4 at_.1 (oCore c) (bodyAt [(8, leBytes 2 q.pc.toNat), (10, leBytes 1 (s.stallState c)), (12, leBytes 4 at_.2.1), (16, leBytes 1 at_.2.2)])
  if s.trc.src = 4 && fld s.trc.val 13 0 = q.pc.toNat && fld s.trc.val 22 16 = c.val then s.triggerTrace else s

/-- TRACE_BEAT: 16 bytes of the head unit; a unit leaves the ring with its last beat (R370). -/
def State.traceBeat (s : State) : State :=
  if !s.trc.portEn || s.trc.policy = 2 || !s.cfg.done || s.pwr.lost then s else
  match s.trc.ring with
  | [] => s
  | h :: t =>
    let b := s.trc.beat
    let out : BitVec 128 := BitVec.ofNat 128 (leNat ((h.drop b).take 16))
    if b + 16 < 64 then { s with trc := { s.trc with out := some out, beat := b + 16 } }
    else
      let rest := h.drop 64
      (({ s with trc := { s.trc with out := some out, beat := 0, ring := if rest.isEmpty then t else rest :: t } } : State).taken 8 0).traceRefill

/-! ### The commands -/

def execTracePacketClose (s : State) : Host.Outcome State Fault Refusal := s.run fun s => s.tracePacketClose
def execTraceSync (s : State) : Host.Outcome State Fault Refusal := s.run fun s => s.traceSync
def execPcsample (core : PCore) (s : State) : Host.Outcome State Fault Refusal := s.run fun s => s.pcsample core
def execTraceBeat (s : State) : Host.Outcome State Fault Refusal := s.run fun s => s.traceBeat

end Sys2Proof.Machine
end

