-- ==== Sys2Proof/Machine/MemPort.lean ====
section
/-! DEFINITION. Sys2Proof/Machine/MemPort.lean: read beats and write acknowledgements of the memory ports and the host port
(R310, R336, R400 to R404). -/

namespace Sys2Proof.Machine

/-- The ORIGIN of a port: memory port p, or the host port. -/
def oPort (p : Fin 17) : W16 := if p = 16 then oHost else oMem p.val

/-- A translation fault of a supervisor request halts the admin ring (R310). -/
def State.superFault (s : State) (p : Fin 17) (addr : Nat) : State :=
  let s : State := { s with hst := { s.hst with halt := true } }
  s.report { code := 0x8109, origin := oPort p, detail := BitVec.ofNat 128 addr }

/-- A fault of a request of a context: the context is torn down, or the swap-in that fills its slot fails (R107, R108). -/
def State.ctxFault (s : State) (i : Slot) (p : Fin 17) (code : W16) (addr : Nat) : State :=
  if (s.ctx i).state = .arriving then s.swapFail i code else s.teardown i code (BitVec.ofNat 128 addr) (oPort p)

/-- The ring index that the event of a translation fault names (Table 16.5): that of the descriptor which the context has in service,
and else the next one of the ring, the slot's or the admin ring's (DESIGN CHOICE, log entry 84). -/
def State.xlateIdx (s : State) : Requester → Nat
  | .ctx i => match (s.ctx i).desc with | some d => d.comp.idx | none => (s.ringOf (.slot i)).head
  | _ => (s.ringOf .admin).head

/-- A translation fault of a request (R310). -/
def State.xlate (s : State) (who : Requester) (p : Fin 17) (addr : Nat) : State :=
  let r : Ring := match who with | .ctx i => .slot i | _ => .admin
  let s := s.hang oHost 0 0x62 (ringSlot r) (ringData r (s.xlateIdx who))
  match who with
  | .ctx i => s.ctxFault i p 0x8109 addr
  | .supervisor => s.superFault p addr
  | .fabric q => (s.superFault p addr).endInstall q 0x8109

/-- An uncorrectable word or a device error at a memory port is counted, and entered in the port's hang ring. -/
def State.markUe (s : State) (p : Fin 17) (addr slot : Nat) : State :=
  if p = 16 then s else (s.count (0x1803 + 8 * p.val) 1).hang (oMem p.val) 0 0x42 slot (BitVec.ofNat 64 (addr / 64))

/-- An uncorrectable word of a port, or a device error (R336, R403). -/
def State.portUe (s : State) (who : Requester) (p : Fin 17) (addr : Nat) : State :=
  let s := s.markUe p addr (match who with | .ctx i => i.val | _ => 0x7F)
  match who with
  | .ctx i => s.ctxFault i p 0x5005 addr
  | .supervisor => s.report { code := 0x5005, origin := oPort p, detail := BitVec.ofNat 128 addr }
  | .fabric q => (s.report { code := 0x5005, origin := oPort p, detail := BitVec.ofNat 128 addr }).endInstall q 0x5005

/-! ### Read beats -/

/-- A word of a memory-port beat with its check bits (R402). -/
def beatWord (d : BitVec 128) (c : BitVec 16) : BitVec 144 := d.zeroExtend 144 ||| c.zeroExtend 144 <<< 128

/-- The words of a beat decoded in order: the data bytes, the corrections by word and symbol, and whether a word is
uncorrectable. -/
def beatDecode : List (BitVec 128 × BitVec 16) → Nat → List Byte × List (Nat × Nat) × Bool
  | [], _ => ([], [], false)
  | x :: t, n =>
    let r := beatDecode t (n + 1)
    let w := beatWord x.1 x.2
    match eccDecode w with
    | .clean => (leBytes 16 x.1.toNat ++ r.1, r.2.1, r.2.2)
    | .corrected sym err => (leBytes 16 ((eccFix w sym err).extractLsb' 0 128).toNat ++ r.1, (n, sym) :: r.2.1, r.2.2)
    | .uncorrectable => (r.1, r.2.1, true)

/-- A good beat of device memory: its corrections are counted, and its bytes are what the block reads there. -/
def State.deviceBeat (s : State) (b : Beat) (p : Nat) : State :=
  let r := beatDecode (b.data.zip b.chk) 0
  let s := r.2.1.foldl (fun s x => (s.count (0x1802 + 8 * p) 1).countCe (oMem p) (b.addr.toNat / 16 + x.1) x.2) s
  if r.2.2 then s.portUe b.who b.port b.addr.toNat else { s with devMem := s.devMem.writeBytes b.addr.toNat r.1 }

/-- MEM_READ_BEAT. -/
def State.memReadBeat (s : State) (b : Beat) : State :=
  if s.cfg.stage = 0 then s
  else if b.err = 1 then (s.xlate b.who b.port b.addr.toNat).settle
  else if b.err ≠ 0 then (s.portUe b.who b.port b.addr.toNat).settle
  else if b.port = 16 then { s with hostMem := s.hostMem.writeBytes b.addr.toNat (b.data.flatMap fun d => leBytes 16 d.toNat) }
  else (s.deviceBeat b b.port.val).settle

/-! ### Write acknowledgements -/

/-- An acknowledged ring entry is announced (R309). -/
def State.ackRing (s : State) (w : OutWrite) : State :=
  match w.owner with
  | .comp r => s.ackComp r w.addr
  | .event torn => s.ackEvent torn w.addr
  | .tally => s.ackTally w.addr
  | _ => s

/-- What waited for an acknowledgement goes on: a slice's completion (R22), an eviction (R105). -/
def State.ackGo (s : State) (w : OutWrite) : State :=
  match w.owner with
  | .slice i _ _ => s.checkComplete i
  | .evict i => s.evictEnd i
  | _ => s

/-- A descriptor whose write failed completes with the error's code; a SUBMIT_SLICE whose slice has ended keeps its own. -/
def State.failDesc (s : State) (c : CompRef) (code : W16) : State :=
  { s with ev := { s.ev with held := s.ev.held.map fun h => if h.comp = c && h.code = 0 && c.type ≠ 1 then { h with code := code } else h } }

/-- A write-back that has failed leaves its record HELD (R105). -/
def State.failEvict (s : State) (i : Slot) : State :=
  (s.modCtx i fun c => { c with evict := c.evict.map fun e => { e with failed := true } }).evictEnd i

/-- What an acknowledgement with ERR does beside its report (R105, R403). -/
def State.failOwner (s : State) (o : WOwner) (code : W16) : State :=
  match o with
  | .desc c => s.failDesc c code
  | .evict i => s.failEvict i
  | _ => s

/-- An acknowledgement with ERR: the fault of the write's owner; an eviction's names its context, and one whose owner a reset has
ended has none to name. -/
def State.ackError (s : State) (w : OutWrite) (xlat : Bool) : State :=
  match w.owner, xlat with
  | .gone, true => s
  | .gone, false => s.markUe w.port w.addr 0x7F
  | .evict i, false => ((s.markUe w.port w.addr i.val).report
      { code := 0x5005, slot := i.val, origin := oPort w.port, detail := BitVec.ofNat 128 w.addr }).failOwner w.owner 0x5005
  | o, true => (s.xlate o.who w.port w.addr).failOwner o 0x8109
  | o, false => (s.portUe o.who w.port w.addr).failOwner o 0x5005

/-- MEM_WRITE_ACK: the write with a port's tag is no longer outstanding, and the writes that waited for its tag or its units are
sent (R400, R401). While stopped-now no request is issued and what follows waits (Table 16.1; log entries 4 and 54). -/
def State.memWriteAck (s : State) (port : Fin 17) (tag : BitVec 8) (err : BitVec 2) : State :=
  match s.outst.find? fun w => w.port == port && w.tag == tag && !w.waits with
  | none => s
  | some w =>
    let l := s.outst.erase w
    let s : State := { s with outst := if s.pwr.lost || s.dbg.stopped then l else sendWaiting s.clk.cycle [] l }
    if err ≠ 0 then (s.ackError w (err == 1)).settle
    else
      let s := s.ackRing w
      if s.dbg.stopped then s else (s.ackGo w).settle

def execMemReadBeat (b : Beat) (s : State) : Host.Outcome State Fault Refusal := s.run fun s => s.memReadBeat b
def execMemWriteAck (port : Fin 17) (tag : BitVec 8) (err : BitVec 2) (s : State) : Host.Outcome State Fault Refusal := s.run fun s => s.memWriteAck port tag err

end Sys2Proof.Machine
end

