-- ==== Sys2Proof/Machine/Dispatch.lean ====
section
/-! DEFINITION. Sys2Proof/Machine/Dispatch.lean: one arm for each command; an arm without a meaning is refused by name. -/

namespace Sys2Proof.Machine

/-- The effect of a command on everything but the queue. -/
def exec (i : Instr) (s : State) : Host.Outcome State Fault Refusal :=
  match i with
  | .alu core w => Sys2Proof.Machine.execAlu core w s
  | .addi core w => Sys2Proof.Machine.execAddi core w s
  | .andi core w => Sys2Proof.Machine.execAndi core w s
  | .ori core w => Sys2Proof.Machine.execOri core w s
  | .shi core w => Sys2Proof.Machine.execShi core w s
  | .movi core w => Sys2Proof.Machine.execMovi core w s
  | .movk core w => Sys2Proof.Machine.execMovk core w s
  | .beq core w => Sys2Proof.Machine.execBeq core w s
  | .bne core w => Sys2Proof.Machine.execBne core w s
  | .blt core w => Sys2Proof.Machine.execBlt core w s
  | .bge core w => Sys2Proof.Machine.execBge core w s
  | .bltu core w => Sys2Proof.Machine.execBltu core w s
  | .bgeu core w => Sys2Proof.Machine.execBgeu core w s
  | .jal core w => Sys2Proof.Machine.execJal core w s
  | .jr core w => Sys2Proof.Machine.execJr core w s
  | .sld core w => Sys2Proof.Machine.execSld core w s
  | .sst core w => Sys2Proof.Machine.execSst core w s
  | .gets core w => Sys2Proof.Machine.execGets core w s
  | .setp core w => Sys2Proof.Machine.execSetp core w s
  | .aset core w => Sys2Proof.Machine.execAset core w s
  | .aget core w => Sys2Proof.Machine.execAget core w s
  | .aadd core w => Sys2Proof.Machine.execAadd core w s
  | .alen core w => Sys2Proof.Machine.execAlen core w s
  | .ldw core w => Sys2Proof.Machine.execLdw core w s
  | .mmul core w => Sys2Proof.Machine.execMmul core w s
  | .psout core w => Sys2Proof.Machine.execPsout core w s
  | .vop core w => Sys2Proof.Machine.execVop core w s
  | .vred core w => Sys2Proof.Machine.execVred core w s
  | .vrand core w => Sys2Proof.Machine.execVrand core w s
  | .tload core w => Sys2Proof.Machine.execTload core w s
  | .teval core w => Sys2Proof.Machine.execTeval core w s
  | .move core w => Sys2Proof.Machine.execMove core w s
  | .twld core w => Sys2Proof.Machine.execTwld core w s
  | .stash core w => Sys2Proof.Machine.execStash core w s
  | .sload core w => Sys2Proof.Machine.execSload core w s
  | .squery core w => Sys2Proof.Machine.execSquery core w s
  | .gacc core w => Sys2Proof.Machine.execGacc core w s
  | .gread core w => Sys2Proof.Machine.execGread core w s
  | .gxenc core w => Sys2Proof.Machine.execGxenc core w s
  | .send core w => Sys2Proof.Machine.execSend core w s
  | .recv core w => Sys2Proof.Machine.execRecv core w s
  | .rwrite core w => Sys2Proof.Machine.execRwrite core w s
  | .wopen core w => Sys2Proof.Machine.execWopen core w s
  | .wclose core w => Sys2Proof.Machine.execWclose core w s
  | .wait core w => Sys2Proof.Machine.execWait core w s
  | .brk core w => Sys2Proof.Machine.execBrk core w s
  | .post core w => Sys2Proof.Machine.execPost core w s
  | .done core w => Sys2Proof.Machine.execDone core w s
  | .take core w => Sys2Proof.Machine.execTake core w s
  | .commandStart core u => Sys2Proof.Machine.execCommandStart core u s
  | .commandComplete core u => Sys2Proof.Machine.execCommandComplete core u s
  | .orderedRelease core => Sys2Proof.Machine.execOrderedRelease core s
  | .fillNotice core src => Sys2Proof.Machine.execFillNotice core src s
  | .arrival upset => Sys2Proof.Machine.execArrival upset s
  | .postAccept core => Sys2Proof.Machine.execPostAccept core s
  | .retirement core => Sys2Proof.Machine.execRetirement core s
  | .dispatchSelect upset => Sys2Proof.Machine.execDispatchSelect upset s
  | .preemptAck core => Sys2Proof.Machine.execPreemptAck core s
  | .kernelEntry core => Sys2Proof.Machine.execKernelEntry core s
  | .bell => Sys2Proof.Machine.execBell s
  | .sleepConfirm => Sys2Proof.Machine.execSleepConfirm s
  | .admission p => Sys2Proof.Machine.execAdmission p s
  | .imageInstall sl => Sys2Proof.Machine.execImageInstall sl s
  | .bankPowerUpDone core bank => Sys2Proof.Machine.execBankPowerUpDone core bank s
  | .submitSlice r => Sys2Proof.Machine.execSubmitSlice r s
  | .loadImage r => Sys2Proof.Machine.execLoadImage r s
  | .loadFabricImage r => Sys2Proof.Machine.execLoadFabricImage r s
  | .fabricInstallPass p => Sys2Proof.Machine.execFabricInstallPass p s
  | .fabricInstallCheck p => Sys2Proof.Machine.execFabricInstallCheck p s
  | .bindTensor r => Sys2Proof.Machine.execBindTensor r s
  | .copyTensor r => Sys2Proof.Machine.execCopyTensor r s
  | .unbindTensor r => Sys2Proof.Machine.execUnbindTensor r s
  | .fence r => Sys2Proof.Machine.execFence r s
  | .kill r => Sys2Proof.Machine.execKill r s
  | .killResolution r => Sys2Proof.Machine.execKillResolution r s
  | .evict r => Sys2Proof.Machine.execEvict r s
  | .readCounters r => Sys2Proof.Machine.execReadCounters r s
  | .openContext r => Sys2Proof.Machine.execOpenContext r s
  | .updatePolicy r => Sys2Proof.Machine.execUpdatePolicy r s
  | .setPolicyResume r => Sys2Proof.Machine.execSetPolicyResume r s
  | .closeContext r => Sys2Proof.Machine.execCloseContext r s
  | .swapIn src => Sys2Proof.Machine.execSwapIn src s
  | .brkArm r => Sys2Proof.Machine.execBrkArm r s
  | .brkDisarm r => Sys2Proof.Machine.execBrkDisarm r s
  | .debugResume r => Sys2Proof.Machine.execDebugResume r s
  | .debugRead r => Sys2Proof.Machine.execDebugRead r s
  | .stopAtBell src => Sys2Proof.Machine.execStopAtBell src s
  | .resumeBell src => Sys2Proof.Machine.execResumeBell src s
  | .stopNow src => Sys2Proof.Machine.execStopNow src s
  | .stopNowTaken => Sys2Proof.Machine.execStopNowTaken s
  | .resumeNow src => Sys2Proof.Machine.execResumeNow src s
  | .trigger src => Sys2Proof.Machine.execTrigger src s
  | .breakpointHit core => Sys2Proof.Machine.execBreakpointHit core s
  | .breakpointHalt core => Sys2Proof.Machine.execBreakpointHalt core s
  | .wake v => Sys2Proof.Machine.execWake v s
  | .adminResume v => Sys2Proof.Machine.execAdminResume v s
  | .bellEnable v => Sys2Proof.Machine.execBellEnable v s
  | .belPeriodWrite v => Sys2Proof.Machine.execBelPeriodWrite v s
  | .ctxQuotaWrite v => Sys2Proof.Machine.execCtxQuotaWrite v s
  | .applyMask v => Sys2Proof.Machine.execApplyMask v s
  | .regulatorWrite off v => Sys2Proof.Machine.execRegulatorWrite off v s
  | .bankForceWrite v => Sys2Proof.Machine.execBankForceWrite v s
  | .detWrite off v => Sys2Proof.Machine.execDetWrite off v s
  | .resetBlock v => Sys2Proof.Machine.execResetBlock v s
  | .resetPitch v => Sys2Proof.Machine.execResetPitch v s
  | .resetContext v => Sys2Proof.Machine.execResetContext v s
  | .retrain v => Sys2Proof.Machine.execRetrain v s
  | .linkEnable v => Sys2Proof.Machine.execLinkEnable v s
  | .clearCounters v => Sys2Proof.Machine.execClearCounters v s
  | .traceControlWrite v => Sys2Proof.Machine.execTraceControlWrite v s
  | .forceB v => Sys2Proof.Machine.execForceB v s
  | .throttleRequest off v => Sys2Proof.Machine.execThrottleRequest off v s
  | .push v => Sys2Proof.Machine.execPush v s
  | .pushDone v => Sys2Proof.Machine.execPushDone v s
  | .rmapPush v => Sys2Proof.Machine.execRmapPush v s
  | .rmapDone v => Sys2Proof.Machine.execRmapDone v s
  | .linkChipWrite v => Sys2Proof.Machine.execLinkChipWrite v s
  | .selectorWrite off v => Sys2Proof.Machine.execSelectorWrite off v s
  | .pairLoRead off => Sys2Proof.Machine.execPairLoRead off s
  | .registerWrite off v => Sys2Proof.Machine.execRegisterWrite off v s
  | .bellMarker port => Sys2Proof.Machine.execBellMarker port s
  | .barrier port => Sys2Proof.Machine.execBarrier port s
  | .barrierSend => Sys2Proof.Machine.execBarrierSend s
  | .barrierRepeat => Sys2Proof.Machine.execBarrierRepeat s
  | .markerMissed => Sys2Proof.Machine.execMarkerMissed s
  | .barrierWait => Sys2Proof.Machine.execBarrierWait s
  | .zreadyTimeout => Sys2Proof.Machine.execZreadyTimeout s
  | .zreadyChange level => Sys2Proof.Machine.execZreadyChange level s
  | .vote port => Sys2Proof.Machine.execVote port s
  | .decision port => Sys2Proof.Machine.execDecision port s
  | .commitInDoubt sl => Sys2Proof.Machine.execCommitInDoubt sl s
  | .groupTransmit port frac => Sys2Proof.Machine.execGroupTransmit port frac s
  | .groupReceive port rx => Sys2Proof.Machine.execGroupReceive port rx s
  | .replayTimeout port => Sys2Proof.Machine.execReplayTimeout port s
  | .trainingAdvance port => Sys2Proof.Machine.execTrainingAdvance port s
  | .trainingTimeout port => Sys2Proof.Machine.execTrainingTimeout port s
  | .trainingRetry port => Sys2Proof.Machine.execTrainingRetry port s
  | .rxlockChange port lane level => Sys2Proof.Machine.execRxlockChange port lane level s
  | .laneSwap port => Sys2Proof.Machine.execLaneSwap port s
  | .laneSwapEffect port tx => Sys2Proof.Machine.execLaneSwapEffect port tx s
  | .tsyncSend port => Sys2Proof.Machine.execTsyncSend port s
  | .tsyncReq port => Sys2Proof.Machine.execTsyncReq port s
  | .tsyncRsp port => Sys2Proof.Machine.execTsyncRsp port s
  | .cut port => Sys2Proof.Machine.execCut port s
  | .request core => Sys2Proof.Machine.execRequest core s
  | .grant core => Sys2Proof.Machine.execGrant core s
  | .nack core => Sys2Proof.Machine.execNack core s
  | .message core => Sys2Proof.Machine.execMessage core s
  | .windowWrite core => Sys2Proof.Machine.execWindowWrite core s
  | .withdraw core => Sys2Proof.Machine.execWithdraw core s
  | .meshTimeout core origin sl => Sys2Proof.Machine.execMeshTimeout core origin sl s
  | .memReadBeat b => Sys2Proof.Machine.execMemReadBeat b s
  | .memWriteAck port tag err => Sys2Proof.Machine.execMemWriteAck port tag err s
  | .scrub loc w => Sys2Proof.Machine.execScrub loc w s
  | .coalesceWindowClose => Sys2Proof.Machine.execCoalesceWindowClose s
  | .selftest core crcs => Sys2Proof.Machine.execSelftest core crcs s
  | .sweep core bank => Sys2Proof.Machine.execSweep core bank s
  | .coreCopy core => Sys2Proof.Machine.execCoreCopy core s
  | .queueStale q => Sys2Proof.Machine.execQueueStale q s
  | .coldReset st => Sys2Proof.Machine.execColdReset st s
  | .warmReset => Sys2Proof.Machine.execWarmReset s
  | .fuseRead bytes => Sys2Proof.Machine.execFuseRead bytes s
  | .personalityLoad nv => Sys2Proof.Machine.execPersonalityLoad nv s
  | .rmapWait => Sys2Proof.Machine.execRmapWait s
  | .supplyStage => Sys2Proof.Machine.execSupplyStage s
  | .startupOrder => Sys2Proof.Machine.execStartupOrder s
  | .startupDone => Sys2Proof.Machine.execStartupDone s
  | .supplyLost mem => Sys2Proof.Machine.execSupplyLost mem s
  | .supplyRestored => Sys2Proof.Machine.execSupplyRestored s
  | .ctlSwitchover => Sys2Proof.Machine.execCtlSwitchover s
  | .ctlReturn => Sys2Proof.Machine.execCtlReturn s
  | .ctlBackupLow => Sys2Proof.Machine.execCtlBackupLow s
  | .loopCheck l ok => Sys2Proof.Machine.execLoopCheck l ok s
  | .clockTransitionEnd => Sys2Proof.Machine.execClockTransitionEnd s
  | .aryVok => Sys2Proof.Machine.execAryVok s
  | .vidTimeout => Sys2Proof.Machine.execVidTimeout s
  | .emergencyRequest src raised => Sys2Proof.Machine.execEmergencyRequest src raised s
  | .thermalReading raw => Sys2Proof.Machine.execThermalReading raw s
  | .tracePacketClose => Sys2Proof.Machine.execTracePacketClose s
  | .pcsample core => Sys2Proof.Machine.execPcsample core s
  | .traceSync => Sys2Proof.Machine.execTraceSync s
  | .traceBeat => Sys2Proof.Machine.execTraceBeat s
  | .loopsLocked e => Sys2Proof.Machine.execLoopsLocked e s
  | .waitTimeReached core => Sys2Proof.Machine.execWaitTimeReached core s
  | .pushTimeout => Sys2Proof.Machine.execPushTimeout s
  | .rmapWaitTimeout => Sys2Proof.Machine.execRmapWaitTimeout s
  | .updateWr code => Sys2Proof.Machine.execUpdateWr code s
  | .mbistDone res => Sys2Proof.Machine.execMbistDone res s

end Sys2Proof.Machine
end

