-- ==== Sys2Proof/Machine/Idle.lean ====
section
/-! DEFINITION. Sys2Proof/Machine/Idle.lean: what a step does when no command waits (log entry 5). -/

namespace Sys2Proof.Machine

/-- The host port hands over the oldest vector that waits, HP_MSI_READY being 1 (R309, R404), unless a lost supply parks it (R377). -/
def State.sendMsi (s : State) : State := if s.pwr.lost then s else { s with hst := { s.hst with msi := s.hst.msi.tail } }

/-- Every spill queue drains as its regulator lets it (R192). -/
def State.drainSpills (s : State) : State := allSlots.foldl State.drainSpill s

/-- One fabric cycle without a command: the clocks go on, and in service the array clock's target is set (R382); unless the block is
stopped-now spill queues drain, completions whose condition holds are written, and a vector is requested (R298, R355, R404). -/
def State.idle (s : State) : State :=
  let s := s.tick
  if !s.cfg.done then s else (if s.dbg.stopped then s else s.drainSpills.settle.sendMsi).retarget

end Sys2Proof.Machine
end

