-- ==== Sys2Proof/Machine/Ports.lean ====
section
/-! DEFINITION. Sys2Proof/Machine/Ports.lean: what the block drives on its outputs, parked or not (R377, R384, R398, R399, R404,
Tables 12.1, 18.3, 18.4). They are views of the state: no command reads them. -/

namespace Sys2Proof.Machine

/-- The groups of outputs that have a PARK_ strap (R399). -/
inductive PortGroup where
  /-- The memory ports, domain 8. -/
  | mem
  /-- The host port, domain 9. -/
  | host
  /-- The link ports, domain 10. -/
  | link
  /-- The trace port, domain 11. -/
  | trc
deriving DecidableEq, Repr

/-- The domain of a group (R386). -/
def PortGroup.domain : PortGroup → Nat
  | .mem => 8
  | .host => 9
  | .link => 10
  | .trc => 11

/-- The strap of a group, as S0 sampled it (R399). -/
def State.parkStrap (s : State) : PortGroup → Bool
  | .mem => s.straps.parkMem
  | .host => s.straps.parkHost
  | .link => s.straps.parkLink
  | .trc => s.straps.parkTrc

/-- The group holds its park values: its domain's PARK step has not been taken since the reset or the loss of a supply (R384), or a
supply of the core domains is out of range (R377, R399). -/
def State.parked (s : State) (g : PortGroup) : Bool :=
  !((s.cfg.domains.at? g.domain).getD {}).unparked || !s.pwr.aryPg || !s.pwr.memPg

/-- A bus of a group that would carry v: while parked every bit is the strap (R399). -/
def State.bus (s : State) (g : PortGroup) {n : Nat} (v : BitVec n) : BitVec n :=
  if s.parked g then (if s.parkStrap g then BitVec.allOnes n else 0) else v

/-- A valid or request signal of a group that would be b: it parks at 0 (R399), and the WRITE step of its domain enables it (R386). -/
def State.valid (s : State) (g : PortGroup) (b : Bool) : Bool := !s.parked g && ((s.cfg.domains.at? g.domain).getD {}).write && b

/-! ### The wrapper's boundary register (R408, Table 18.6) -/

/-- What the boundary register holds in the cells of a signal. -/
def WrapSt.cell (w : WrapSt) (p : Pin) : Nat := ((w.cells.find? fun c => c.1 = p).map (·.2)).getD 0

/-- Under EXTEST the outputs are driven from the boundary register, and under CLAMP they are held at its contents. -/
def State.tested (s : State) : Bool := s.wrap.wir == 1 || s.wrap.wir == 3

/-- An output that the block itself drives with v. -/
def State.drive (s : State) (p : Pin) {n : Nat} (v : BitVec n) : BitVec n := if s.tested then BitVec.ofNat n (s.wrap.cell p) else v

/-- An output of one bit. -/
def State.driveBit (s : State) (p : Pin) (b : Bool) : Bool := if s.tested then bit (BitVec.ofNat 1 (s.wrap.cell p)) 0 else b

/-- An input as the block sees it when its pin has level v: under INTEST from the boundary register. The block is held as in a cold reset
then (R409), and no command reads an input. -/
def State.seen (s : State) (p : Pin) {n : Nat} (v : BitVec n) : BitVec n := if s.wrap.wir == 2 then BitVec.ofNat n (s.wrap.cell p) else v

/-- The data register that stands between WSI and WSO (Table 18.6). -/
inductive DataReg where
  | bypass | boundary | chains | mbist | idcode
deriving DecidableEq, Repr

/-- The data register of the instruction in force. -/
def WrapSt.dataReg (w : WrapSt) : DataReg :=
  match w.wir.toNat with
  | 1 => .boundary
  | 2 => .boundary
  | 4 => .chains
  | 5 => .mbist
  | 6 => .idcode
  | _ => .bypass

/-- What a CaptureWR loads into the identity register: the word of ID.IDCODE (R413). -/
def State.idWord (s : State) : W32 := BitVec.ofNat 32 ((s.readCfg 0).getD 0)

/-! ### Signals -/

/-- The group of a memory port, or of the host port (port 16). -/
def portGroup (p : Fin 17) : PortGroup := if p = 16 then .host else .mem

/-- The 64-byte units of a beat of a port: four on a memory port, two on the host port (Table 18.3, R404). -/
def beatUnits (p : Fin 17) : Nat := if p = 16 then 2 else 4

/-- The write signals of a memory port or of the host port (Table 18.3, R404), each field as wide as the wider of the two: W_ADDR has
56 bits, [63:8], on a memory port and 57, [63:7], on the host port, W_MASK 4 and 2, and W_DATA 2,048 and 1,024; the host port has no
W_CHK. -/
structure WriteSignals where
  valid : Bool
  addr : BitVec 57
  mask : BitVec 4
  tag : BitVec 8
  pasid : BitVec 21
  data : BitVec 2048
  chk : BitVec 256
deriving DecidableEq, Repr

/-- The read-request signals of a memory port or of the host port: AR_ADDR as W_ADDR, AR_BEATS 2 and 3 bits wide. -/
structure ReadSignals where
  valid : Bool
  addr : BitVec 57
  beats : BitVec 3
  tag : BitVec 8
  pasid : BitVec 21
deriving DecidableEq, Repr

/-- W_MASK: the units of its beat of n units that a write touches; a write is one beat. -/
def OutWrite.mask (w : OutWrite) (n : Nat) : BitVec 4 :=
  BitVec.ofNat 4 (natSum ((List.range n).map fun u =>
    let a := w.addr / (64 * n) * (64 * n) + 64 * u
    b2n (decide (a < w.addr + w.len) && decide (w.addr < a + 64)) <<< u))

/-- The first unit of its beat of n units that a write touches. -/
def OutWrite.firstUnit (w : OutWrite) (n : Nat) : Nat := w.addr / 64 % n

/-- W_DATA: the units that a write touches at their place in the beat; bytes of other units, which W_MASK leaves out, are 0
(DESIGN CHOICE, log entry 4). -/
def OutWrite.beatData (w : OutWrite) (n : Nat) : BitVec 2048 := BitVec.ofNat 2048 (leNat w.units <<< (512 * w.firstUnit n))

/-- W_CHK: the check bits of the 16-byte words of those units at their place (R402). -/
def OutWrite.beatChk (w : OutWrite) (n : Nat) : BitVec 256 :=
  BitVec.ofNat 256 ((w.chk.foldr (fun c t => c.toNat + t <<< 16) 0) <<< (64 * w.firstUnit n))

/-- AR_PASID and W_PASID: [20] PASID valid, [19:0] PASID (R310). -/
def pasidWord (q : Option (BitVec 20)) : BitVec 21 := match q with | some q => (1 : BitVec 1) ++ q | none => 0

/-- What a port drives in the cycle in which it offers the beat of a write, and in one in which it offers none. -/
def State.writeSignals (s : State) (p : Fin 17) (w : Option OutWrite) : WriteSignals :=
  let g := portGroup p
  let n := beatUnits p
  let x := w.getD { port := p, tag := 0, addr := 0, owner := .tally, len := 0 }
  { valid := s.driveBit (.port p .wValid) (s.valid g w.isSome)
    addr := s.drive (.port p .wAddr) (s.bus g (BitVec.ofNat 57 (x.addr / (64 * n))))
    mask := s.drive (.port p .wMask) (s.bus g (x.mask n)), tag := s.drive (.port p .wTag) (s.bus g x.tag)
    pasid := s.drive (.port p .wPasid) (s.bus g (pasidWord x.pasid)), data := s.drive (.port p .wData) (s.bus g (x.beatData n))
    chk := s.drive (.port p .wChk) (s.bus g (x.beatChk n)) }

/-- The beats of a read: whole beats of the port from the one that holds its first byte to the one that holds its last. -/
def ReadReq.beats (r : ReadReq) (n : Nat) : Nat := ceilDiv (r.addr + r.len) (64 * n) - r.addr / (64 * n)

/-- The requests that a read takes: each of at most the beats of one tag, 4 on a memory port and 8 on the host port (Table 18.3,
R404). -/
def ReadReq.requests (r : ReadReq) (p : Fin 17) : Nat := ceilDiv (r.beats (beatUnits p)) (if p = 16 then 8 else 4)

/-- What a port drives in the cycle in which it asks for request k of a read, under read tag k modulo 256: no read of the port is
outstanding before (log entry 4). -/
def State.readSignals (s : State) (p : Fin 17) (r : Option ReadReq) (k : Nat) : ReadSignals :=
  let g := portGroup p
  let n := beatUnits p
  let m := if p = 16 then 8 else 4
  let x := r.getD { addr := 0, len := 0, pasid := none }
  { valid := s.driveBit (.port p .arValid) (s.valid g (match r with | some x => decide (k < x.requests p) | none => false))
    addr := s.drive (.port p .arAddr) (s.bus g (BitVec.ofNat 57 (x.addr / (64 * n) + m * k)))
    beats := s.drive (.port p .arBeats) (s.bus g (BitVec.ofNat 3 (min m (x.beats n - m * k) - 1)))
    tag := s.drive (.port p .arTag) (s.bus g (BitVec.ofNat 8 k)), pasid := s.drive (.port p .arPasid) (s.bus g (pasidWord x.pasid)) }

/-- The requests of the last read of a port (R310, R400). -/
def State.lastReadSignals (s : State) (p : Fin 17) (k : Nat) : ReadSignals := s.readSignals p (s.lastRead.find p.val) k

/-- HP_MSI_VALID and HP_MSI_VEC: the oldest vector that waits (R404). -/
def State.msiSignals (s : State) : Bool × BitVec 11 :=
  (s.driveBit .msiValid (s.valid .host !s.hst.msi.isEmpty), s.drive .msiVec (s.bus .host (s.hst.msi.headD 0)))

/-- TRC_VALID and TRC_D (R370). -/
def State.trcSignals (s : State) : Bool × BitVec 128 :=
  (s.driveBit .trcValid (s.valid .trc s.trc.out.isSome), s.drive .trcD (s.bus .trc (s.trc.out.getD 0)))

/-- LKp_TXD_l in the cycle of word k of the last codeword: the symbols of the lane's logical lane (R263, R264, R278), and parked
the value of PARK_LINK. -/
def State.txd (s : State) (p : LPort) (lane : Fin 9) (k : Nat) : BitVec 160 :=
  s.drive (.txd p lane) (s.bus .link ((s.port p).laneWord ((s.port p).logicalOf lane.val) k))

/-- LKp_PHYRST_N. -/
def State.phyRstPin (s : State) (p : LPort) : Bool := s.driveBit (.phyRstN p) (!s.parked .link && s.phyRstN p)

/-- ZREADY_PD: 1 pulls the line low (R387, R399). -/
def State.zreadyPd (s : State) : Bool := s.driveBit .zreadyPd s.cfg.zDrive

/-- ARY_VID: 0 until S5 has written it (R376, R395). -/
def State.aryVid (s : State) : BitVec 8 := s.drive .aryVid (BitVec.ofNat 8 s.pwr.vid)

/-- FCLK_OUT and TRC_CLK run: from S1 onwards (R398). -/
def State.fclkRuns (s : State) : Bool := decide (1 ≤ s.cfg.stage)

/-- MS_READY: 0 until S1 (R406). -/
def State.msReady (s : State) : Bool := s.driveBit .msReady (decide (1 ≤ s.cfg.stage))

/-- MS_ERR and MS_RDATA of the last access (R406). -/
def State.msAnswer (s : State) : Bool × W32 := (s.driveBit .msErr s.mgmt.err, s.drive .msRdata s.mgmt.rdata)

end Sys2Proof.Machine
end

