-- ==== Sys2Proof/Safety.lean ====
section
/-! DEFINITION. Sys2Proof/Safety.lean: what counts as a safe step, and the conditions and next states in which the claims
are written. -/

namespace Sys2Proof.Machine

/-- The step answers a next state: it neither faults nor is refused. -/
def answersNext (o : Host.Outcome State Fault Refusal) : Prop := ∃ t, o = .next t

/-- Every memory of a core is in canonical form. -/
def Core.memoriesWf (k : Core) : Bool :=
  k.imem.wf && k.weight.wf && k.act.wf && k.psum.wf && k.delta.wf && k.base.wf

/-- Every off-block memory and every scratch memory of the state is in canonical form. -/
def State.memoriesWf (s : State) : Bool :=
  s.hostMem.wf && s.devMem.wf && (List.finRange 72).all fun c => (s.cores.get c).memoriesWf

/-! ### Sequencer instructions -/

/-- The sequencer of a core is about to issue this instruction for instance x, and the wrapper does not hold the block. -/
def State.issues (s : State) (c : PCore) (op : BitVec 6) (w : BitVec 26) (x : Inst) : Prop :=
  s.wrap.hold = false ∧ s.fetch c op w = .ok x

/-- No register of the list waits for a command's result (R210). -/
def State.regsReady (s : State) (c : PCore) (l : List Nat) : Prop := ∀ r ∈ l, r ∉ (s.core c).seq.pend

/-- The next word address of a core's sequencer. -/
def State.nextPc (s : State) (c : PCore) : Nat := (s.core c).seq.pc.toNat + 1

/-- A sequencer that has issued an instruction and goes on at a word address: a step that DEBUG RESUME asked for is over. -/
def Seq.issued (q : Seq) (pc : Nat) : Seq :=
  { q with pc := BitVec.ofNat 14 pc, skipPc := none, stepOne := false
           brkDrain := q.brkDrain || q.stepOne, brkStep := q.brkStep || q.stepOne }

/-- The state after an instruction whose whole effect is on its sequencer: f, the new PC and the core's count of
instructions issued (counter 19); nothing else differs. -/
def State.afterSeq (s : State) (c : PCore) (pc : Nat) (f : Seq → Seq) : State :=
  { s with cores := s.cores.put c { s.core c with
      seq := (f (s.core c).seq).issued pc
      counters := (s.core c).counters.put 19 ((s.core c).counters.get 19 + 1) } }

/-- The checks that a command instruction passes at issue and the room that it finds (R117, R222). -/
def State.accepts (s : State) (c : PCore) (op : BitVec 6) (w : BitVec 26) (x : Inst) : Prop :=
  let d := s.cmdOf c x op.toNat w
  s.issues c op w x ∧ s.regsReady c [2 * fld w 13 10, 2 * fld w 13 10 + 1] ∧ s.nextPc c < 16384 ∧
  checkCmd s.mgmt.chip (s.core c) (s.ctx x.slot) x.slot d = none ∧ emptyCmd d = false ∧
  (∀ o ∈ opnds d fun _ => false, s.opndBad c x d o = false) ∧ s.regBad c x d = false ∧
  ((s.core c).queue (unitOf d.op)).length < 16 ∧
  (d.writes.isEmpty = true ∨ ((s.core c).cmds.filter fun e => !e.writes.isEmpty).length < 32) ∧
  (s.leaves c x d = true → (s.core c).bufferFull d = false)

/-- Table 10.4: the operation of ALU by FN. -/
def aluTable : List (Nat × (W64 → W64 → W64)) := [
  (0, fun a b => a + b), (1, fun a b => a - b), (2, fun a b => a &&& b), (3, fun a b => a ||| b), (4, fun a b => a ^^^ b),
  (5, fun a b => a <<< (b.toNat % 64)), (6, fun a b => a >>> (b.toNat % 64)), (7, fun a b => a.sshiftRight (b.toNat % 64)),
  (8, fun a b => a * b), (9, fun a b => if a.toInt < b.toInt then 1 else 0), (10, fun a b => if a.toNat < b.toNat then 1 else 0),
  (11, fun a b => if a.toInt ≤ b.toInt then a else b), (12, fun a b => if a.toInt ≤ b.toInt then b else a),
  (13, fun a b => if a.toNat ≤ b.toNat then a else b), (14, fun a b => if a.toNat ≤ b.toNat then b else a)]

/-- Table 10.4: the conditional branches, with their opcodes and conditions. -/
def branchTable : List (BitVec 6 × (PCore → BitVec 26 → Instr) × (W64 → W64 → Prop)) := [
  (0x08, Instr.beq, fun a b => a = b), (0x09, Instr.bne, fun a b => a ≠ b),
  (0x0A, Instr.blt, fun a b => a.toInt < b.toInt), (0x0B, Instr.bge, fun a b => b.toInt ≤ a.toInt),
  (0x0C, Instr.bltu, fun a b => a.toNat < b.toNat), (0x0D, Instr.bgeu, fun a b => b.toNat ≤ a.toNat)]

/-- The command instructions (format C) with their opcodes (Tables 10.8, 10.11, 10.13). -/
def commandTable : List (BitVec 6 × (PCore → BitVec 26 → Instr)) := [
  (0x20, Instr.ldw), (0x21, Instr.mmul), (0x22, Instr.psout), (0x24, Instr.vop), (0x25, Instr.vred), (0x26, Instr.vrand),
  (0x28, Instr.tload), (0x29, Instr.teval), (0x2C, Instr.move), (0x2D, Instr.twld), (0x2E, Instr.stash), (0x2F, Instr.sload),
  (0x30, Instr.squery), (0x31, Instr.gacc), (0x32, Instr.gread), (0x33, Instr.gxenc), (0x34, Instr.send), (0x35, Instr.recv),
  (0x36, Instr.rwrite), (0x37, Instr.wopen), (0x38, Instr.wclose)]

/-- Every sequencer instruction but TAKE, with its opcode. -/
def sequencerTable : List (BitVec 6 × (PCore → BitVec 26 → Instr)) :=
  [(0x01, Instr.alu), (0x02, Instr.addi), (0x03, Instr.andi), (0x04, Instr.ori), (0x05, Instr.shi), (0x06, Instr.movi),
   (0x07, Instr.movk), (0x0E, Instr.jal), (0x0F, Instr.jr), (0x10, Instr.sld), (0x11, Instr.sst), (0x12, Instr.gets),
   (0x13, Instr.setp), (0x14, Instr.aset), (0x15, Instr.aget), (0x16, Instr.aadd), (0x17, Instr.alen), (0x3A, Instr.post),
   (0x3B, Instr.done), (0x3D, Instr.wait), (0x3E, Instr.brk)] ++
  (branchTable.map fun b => (b.1, b.2.1)) ++ commandTable

/-- Two states have the same memories, but for the instruction memories: host, device and every scratch memory. -/
def State.sameMemories (s t : State) : Prop :=
  t.hostMem = s.hostMem ∧ t.devMem = s.devMem ∧ ∀ k : PCore, ∀ m : Nat, (t.core k).mem m = (s.core k).mem m

/-- Two states have the same sequencers, queues and presence on every core but one. -/
def State.sameCoresBut (s t : State) (c : PCore) : Prop := ∀ k : PCore, k ≠ c → t.core k = s.core k

/-! ### Commands -/

/-- The command at the head of a unit's queue has started and can complete (R117, R118). A sequencer that blocks in WAIT has a next word
to go on at. -/
def State.completes (s : State) (c : PCore) (u : CmdUnit) (d : Cmd) : Prop :=
  s.wrap.hold = false ∧ s.runs = true ∧ s.frozen d.inst.slot = false ∧ ((s.core c).queue (unitNum u)).head? = some d ∧ d.started = true ∧
  (u ≠ .move → s.pwr.gated = false) ∧ s.cmdReady c d = true ∧ ((∀ imm v, (s.core c).seq.mode ≠ .wait imm v) ∨ s.nextPc c < 16384)

/-- An address register names a handle of scratch memory m that is not versioned, and its OFFSET is byte address `at'` of it. -/
def State.scratchAt (s : State) (c : PCore) (d : Cmd) (reg : W64) (m at' : Nat) : Prop :=
  ∃ e, (s.core c).handle d.inst.slot (arHandle reg) = some e ∧ e.mem = m ∧ m < 5 ∧ e.cls ≠ 1 ∧ at' = e.base * 64 + arOff reg * 64

/-- Bytes written in pieces, each at its offset from an address. -/
def Memory.writeParts (m : Memory) (at' : Nat) (parts : List (Nat × List Byte)) : Memory :=
  parts.foldl (fun m p => m.writeBytes (at' + p.1) p.2) m

/-- From s to t the pieces are written in one scratch memory of a core, and every other scratch memory and the memories off the block are
as they were. -/
def State.wrote (s t : State) (c : PCore) (m at' : Nat) (parts : List (Nat × List Byte)) : Prop :=
  t.hostMem = s.hostMem ∧ t.devMem = s.devMem ∧ ∀ k : PCore, ∀ n < 5, (t.core k).mem n =
    if k = c ∧ n = m then ((s.core c).mem m).writeParts at' parts else (s.core k).mem n

/-- Values as a vector or table command writes them: under its OUT, ROUND and SAT, packed, and padded to whole units (R143, R152, R153). -/
def State.vecBytes (s : State) (d : Cmd) (vs : List Num) : List Byte :=
  let f := mOut d.m0
  padUnits (pack (fmtBits f) (writeVals f (mRound d.m0) (mSat d.m0)
    (vs.zipIdx.map fun v => (v.1, s.srDraw d.inst d d.aD (fmtBits f) (v.2 * fmtBits f)))).codes)

/-- From s to t a command's result has joined its core's release buffer with the command's sequence number q (R133). -/
def State.buffered (s t : State) (c : PCore) (d : Cmd) (q : W16) (k : RelKind) : Prop :=
  ∃ i, (t.core c).relBuf = (s.core c).relBuf ++ [i] ∧ i.seq = q ∧ i.slot = d.inst.slot ∧ i.inst = d.inst ∧ i.kind = k

/-! ### The Market -/

/-- What the countdown of instance idx leaves, where e₁ is its entry with the arrival entered and one dependency fewer and sl the
slice (R75, R77, R78): above zero it waits. At zero it is skipped where everything that it depends on was skipped; its context
is torn down where it has skips and no MERGE; else it joins the end of its ready list. -/
def State.countsDown (s t : State) (rest : List Arrival) (idx : Nat) (e₁ : TaskEnt) (sl : Slice) : Prop :=
  let n := e₁.rcd.ports
  let all : Prop := (0 < n ∧ ∀ i < 16, e₁.skipMask.getLsbD i = decide (i < n)) ∨ (n = 0 ∧ 0 < e₁.rcd.dep ∧ e₁.ctlReal = false)
  (e₁.count ≠ 0 → t.mkt.tasks.find idx = some e₁ ∧ t.mkt.arrivals = rest ∧ (t.ctx e₁.slot).slice = some sl) ∧
  (e₁.count = 0 → all → t.mkt.tasks.find idx = none ∧ (∀ j ∈ e₁.list, t.mkt.matching.find j = none) ∧
    t.mkt.arrivals = rest ++ (s.edges e₁).map (fun d =>
      { slot := e₁.slot, gen := e₁.gen, task := d.target, port := d.port, kind := 1, level := e₁.level }) ∧
    ∃ sl', (t.ctx e₁.slot).slice = some sl' ∧ sl'.skipped = sl.skipped + 1 ∧ sl'.retired = sl.retired) ∧
  (e₁.count = 0 → ¬ all → e₁.skipMask ≠ 0 → e₁.rcd.merge = false → (s.ctx e₁.slot).state = .loaded →
    (t.ctx e₁.slot).state = .torn ∧ (t.ctx e₁.slot).outcome = some (3, 0x3106)) ∧
  (e₁.count = 0 → ¬ all → (e₁.skipMask = 0 ∨ e₁.rcd.merge = true) → e₁.level < 4 → t.mkt.arrivals = rest ∧
    t.mkt.tasks.find idx = some { e₁ with state := 2 } ∧ t.readyAt (s.listOf e₁) = s.readyAt (s.listOf e₁) ++ [idx])

/-- What an arrival a at the entry e of instance idx does (R73, R75, R76, R89), where o is the outcome of its command: a port that has
had no arrival takes a data token into a matching-store entry, or a skip into its mask; a control arrival counts alone. A
token past the reservation of the image tears the context down, and one for which the pool has no room waits. -/
def State.meetsInstance (s : State) (a : Arrival) (rest : List Arrival) (idx : Nat) (e : TaskEnt) (im : Image) (sl : Slice)
    (o : Host.Outcome State Fault Refusal) : Prop :=
  let low := (e.count + 65535) % 65536
  let live := s.mkt.live a.slot
  let room : Prop := live + s.mkt.ret a.slot < (s.ctx a.slot).quota ∨ 0 < s.poolFree
  let marked (m old : W16) : Prop := ∀ i < 16, m.getLsbD i = (decide (i = a.port) || old.getLsbD i)
  (16 ≤ a.port → ∃ t, o = .next t ∧ s.countsDown t rest idx { e with ctlReal := decide (a.kind = 2) || e.ctlReal, count := low } sl) ∧
  (a.port < 16 → bit e.dataMask a.port = false → bit e.skipMask a.port = false →
    (a.kind ≠ 0 → ∃ t m, o = .next t ∧ marked m e.skipMask ∧ s.countsDown t rest idx { e with skipMask := m, count := low } sl) ∧
    (a.kind = 0 → live + 1 ≤ im.peakTokens → room → ∃ t m j, o = .next t ∧ marked m e.dataMask ∧
      s.countsDown t rest idx { e with dataMask := m, list := e.list ++ [j], count := low } sl ∧
      (a.port < e.rcd.ports → (e.skipMask = 0 ∨ e.rcd.merge = true) →
        t.mkt.matching.find j = some { slot := a.slot, gen := e.gen, task := e.task, port := a.port, tok := a.tok })) ∧
    (a.kind = 0 → im.peakTokens ≤ live → (s.ctx a.slot).state = .loaded →
      ∃ t, o = .next t ∧ (t.ctx a.slot).state = .torn ∧ (t.ctx a.slot).outcome = some (3, 0x3107)) ∧
    (a.kind = 0 → live + 1 ≤ im.peakTokens → ¬ room → (∀ y ∈ s.mkt.tasks, y.2.slot = a.slot → y.2.retained = false) →
      ∃ t, o = .next t ∧ t.mkt.arrivals = s.mkt.arrivals ∧ t.mkt.tasks.find idx = some e ∧ t.mkt.poolWait = true))

/-- What a data or control edge of an instance carries at its retirement (R73, R75): nothing where it is unconditional data; the held
token or a skip where it is conditional data; a real or a skipped arrival where it is control. -/
def TaskEnt.carries (e : TaskEnt) (core : PCore) (preds : W16) (held : Nat → Token) (d : EdgeRec) : Option Arrival :=
  if d.port < 16 ∧ d.cond = false then none
  else
    let skipped : Prop := d.cond = true ∧ preds.getLsbD d.pred ≠ d.sense
    some { slot := e.slot, gen := e.gen, task := d.target, port := d.port, level := e.level, core := some core
           kind := if skipped then 1 else if d.port < 16 then 0 else 2
           tok := if ¬ skipped ∧ d.port < 16 then held d.out else {} }

/-! ### Descriptors -/

/-- The block takes a descriptor d of a row of the opcode table from a ring, with its completion c, in the state s₁, and
neither its fields nor its ring's rights forbid it (R296, R299). -/
def State.takes (s : State) (r : Ring) (row : Nat) (d : List Byte) (c : CompRef) (s₁ : State) : Prop :=
  s.wrap.hold = false ∧ s.takeDesc r = some (d, c, s₁) ∧ rowOf d = some row ∧ descReserved d = false ∧ s₁.unprivileged r d = false

/-- The rows of descriptors by their number (16 × TYPE and KIND, OP or resolution), with the slot states in which each is
taken (Table 5.1, R301 to R306, R357). -/
def descTable : List (Nat × (Ring → Instr) × Option (List SlotState)) := [
  (0x10, Instr.submitSlice, some [.loaded]), (0x20, Instr.loadImage, some [.opened, .loaded]), (0x21, Instr.loadFabricImage, none),
  (0x30, Instr.bindTensor, some [.opened, .loaded]), (0x31, Instr.copyTensor, some [.opened, .loaded]),
  (0x32, Instr.unbindTensor, some [.opened, .loaded]), (0x40, Instr.fence, some [.opened, .loaded]), (0x50, Instr.kill, some [.loaded]),
  (0x51, Instr.killResolution, some [.loaded]), (0x60, Instr.evict, some [.loaded]), (0x70, Instr.readCounters, none),
  (0x80, Instr.openContext, some [.free]), (0x81, Instr.updatePolicy, some [.opened, .loaded, .torn]),
  (0x82, Instr.setPolicyResume, some [.torn]), (0x83, Instr.closeContext, some [.opened, .loaded, .torn]),
  (0x84, fun r => Instr.swapIn (.desc r), some [.free]), (0x91, Instr.brkArm, some [.loaded]), (0x92, Instr.brkDisarm, some [.loaded]),
  (0x93, Instr.debugResume, some [.loaded]), (0x94, Instr.debugRead, none), (0x95, fun r => Instr.stopAtBell (.desc r), none),
  (0x96, fun r => Instr.resumeBell (.desc r), none), (0x97, fun r => Instr.stopNow (.desc r), none),
  (0x98, fun r => Instr.resumeNow (.desc r), none), (0x99, fun r => Instr.trigger (.desc r), none)]

/-! ### Registers -/

/-- The management slave port takes a write of a register: out of reset, start-up over, the wrapper not holding the block. -/
def State.portOpen (s : State) : Prop := s.wrap.hold = false ∧ s.cfg.stage ≠ 0 ∧ s.cfg.done = true

/-- The writable pairs _LO and _HI by the offset of their _LO half, with the bits that they hold (Tables 13.10, 14.2, 5.3
and 15.6). -/
def pairTable : List (Nat × W64) := [
  (0x1114, 0xFFFFFFFFFFFFFFFF), (0x2010, 0xFFFFFFFFFFFFFFC0), (0x2018, 0xFFFFFFFFFFFFFFC0), (0x2020, 0xFFFFFFFFFFFFF000),
  (0x2028, 0xFFFFFFFFFFFFF000), (0x2030, 0xFFFFFFFFFFFFF000), (0x2038, 0xFFFFFFFFFFFFF000), (0x5020, 0xFFFFFFFFFFFFFF80),
  (0x9028, 0xFFFFFFFFFFFFF000)]

/-- The state with the port's error flag clear, as an access that meets a register leaves it. -/
def State.portOk (s : State) : State := { s with mgmt := { s.mgmt with err := false } }

/-! ### The test wrapper -/

/-- The wrapper's instruction is none of the reserved codes, the fuses' identity and keys have their sizes, and a block that the wrapper
holds is as in a cold reset: nothing configured, no key kept (R407 to R409). -/
def State.wrapperOk (s : State) : Prop :=
  s.wrap.wir.toNat ≤ 6 ∧ s.fuse.devId.length = 16 ∧
  (s.fuse.keys = [] ∨ (s.fuse.keys.length = 4 ∧ ∀ k ∈ s.fuse.keys, k.length = 32)) ∧
  (s.wrap.hold = true → s.fuse.keys = [] ∧ s.cfg = {} ∧ s.ctxs = State.reset.ctxs ∧ s.cores = State.reset.cores ∧
    s.ports = State.reset.ports ∧ s.pwr = {} ∧ s.bel = {} ∧ s.mkt = {} ∧ s.outst = [])

end Sys2Proof.Machine
end

