-- ==== Sys2Proof/Certificates/Slice0/Obligations.lean ====
section
/-! DEFINITION. Sys2Proof/Certificates/Slice0/Obligations.lean: the statements for the provers. -/

open Sys2Proof Sys2Proof.Machine

/-! ### Sequencer instructions (chapter 10) -/

/-- R220, Table 10.4: the scalar instructions that write a general register write these values, move to the next word and
change nothing else but the core's instruction count. -/
def Obligations.ScalarRegisterResults : Prop :=
  ∀ (s : State) (c : PCore) (w : BitVec 26) (x : Inst), s.nextPc c < 16384 →
    let d := fld w 25 21
    let a := fld w 20 16
    let imm : BitVec 16 := w.extractLsb' 0 16
    let writes (i : Instr) (f : Seq → W64) : Prop := exec i s = .next (s.afterSeq c (s.nextPc c) fun q => q.setS d (f q))
    (∀ e ∈ aluTable, s.issues c 0x01 w x → s.regsReady c [d, a, fld w 15 11] → fld w 10 6 = 0 → fld w 5 0 = e.1 →
      writes (.alu c w) fun q => e.2 (q.sr a) (q.sr (fld w 15 11))) ∧
    (s.issues c 0x02 w x → s.regsReady c [d, a] → writes (.addi c w) fun q => q.sr a + imm.signExtend 64) ∧
    (s.issues c 0x03 w x → s.regsReady c [d, a] → writes (.andi c w) fun q => q.sr a &&& imm.zeroExtend 64) ∧
    (s.issues c 0x04 w x → s.regsReady c [d, a] → writes (.ori c w) fun q => q.sr a ||| imm.zeroExtend 64) ∧
    (s.issues c 0x05 w x → s.regsReady c [d, a] → fld w 15 10 = 0 → fld w 7 6 = 0 →
      (fld w 9 8 = 0 → writes (.shi c w) fun q => q.sr a <<< fld w 5 0) ∧
      (fld w 9 8 = 1 → writes (.shi c w) fun q => q.sr a >>> fld w 5 0) ∧
      (fld w 9 8 = 2 → writes (.shi c w) fun q => (q.sr a).sshiftRight (fld w 5 0))) ∧
    (s.issues c 0x06 w x → s.regsReady c [d] → a = 0 → writes (.movi c w) fun _ => imm.signExtend 64) ∧
    (s.issues c 0x15 w x → s.regsReady c [d] → fld w 20 20 = 0 → fld w 15 0 = 0 → writes (.aget c w) fun q => q.ar (fld w 19 16)) ∧
    (s.issues c 0x07 w x → s.regsReady c [d] → fld w 20 18 = 0 →
      ∃ v : W64, (writes (.movk c w) fun _ => v) ∧ ∀ i < 64, v.getLsbD i =
        if 16 * fld w 17 16 ≤ i ∧ i < 16 * fld w 17 16 + 16 then imm.getLsbD (i - 16 * fld w 17 16) else ((s.core c).seq.sr d).getLsbD i)

/-- R220, Table 10.4: a conditional branch goes to PC + sext(OFF) where its condition holds and to the next word where it
does not; JAL and JR write PC + 1 to sd and jump. Nothing else changes but the instruction count. -/
def Obligations.BranchesAndJumps : Prop :=
  ∀ (s : State) (c : PCore) (w : BitVec 26) (x : Inst),
    let q := (s.core c).seq
    let p := fld w 25 21
    let r := fld w 20 16
    let rel (t : Nat) : Prop := (t : Int) = (q.pc.toNat : Int) + (w.extractLsb' 0 16 : BitVec 16).toInt
    (∀ b ∈ branchTable, s.issues c b.1 w x → s.regsReady c [p, r] →
      (b.2.2 (q.sr p) (q.sr r) → ∀ t : Nat, rel t → t < x.klen / 4 → exec (b.2.1 c w) s = .next (s.afterSeq c t id)) ∧
      (¬ b.2.2 (q.sr p) (q.sr r) → s.nextPc c < 16384 → exec (b.2.1 c w) s = .next (s.afterSeq c (s.nextPc c) id))) ∧
    (s.issues c 0x0E w x → s.regsReady c [p] → r = 0 → ∀ t : Nat, rel t → t < x.klen / 4 →
      exec (.jal c w) s = .next (s.afterSeq c t fun q => q.setS p (BitVec.ofNat 64 (s.nextPc c)))) ∧
    (s.issues c 0x0F w x → s.regsReady c [p, r] → fld w 15 0 = 0 → (q.sr r).toNat < x.klen / 4 →
      exec (.jr c w) s = .next (s.afterSeq c (q.sr r).toNat fun q => q.setS p (BitVec.ofNat 64 (s.nextPc c))))

/-- R219: a taken branch or a jump whose target lies at or beyond KERNEL_LEN ÷ 4, or below 0, faults the context with
PC_RANGE (0x4031); so does a fetch there, and a word that no table assigns faults with ILLEGAL_OP (0x4030). The instruction
has no other effect. R222, R218: a command instruction whose check fails at issue faults its context with the code of the
check, and with SEQ_OPERAND (0x4033) where an operand fails; it does not enter a queue. The model’s own readings in it: log entry 9. -/
def Obligations.SequencerFaults : Prop :=
  (∀ (s : State) (c : PCore) (w : BitVec 26) (x : Inst),
      let q := (s.core c).seq
      let p := fld w 25 21
      let r := fld w 20 16
      let target : Int := (q.pc.toNat : Int) + (w.extractLsb' 0 16 : BitVec 16).toInt
      let faults (i : Instr) (code : W16) : Prop := exec i s = .next (s.act fun s => s.fault c x.slot code)
      (∀ b ∈ branchTable, s.issues c b.1 w x → s.regsReady c [p, r] → b.2.2 (q.sr p) (q.sr r) →
        (target < 0 ∨ (x.klen / 4 : Nat) ≤ target) → faults (b.2.1 c w) 0x4031) ∧
      (s.issues c 0x0E w x → s.regsReady c [p] → r = 0 → (target < 0 ∨ (x.klen / 4 : Nat) ≤ target) → faults (.jal c w) 0x4031) ∧
      (s.issues c 0x0F w x → s.regsReady c [p, r] → fld w 15 0 = 0 → x.klen / 4 ≤ (q.sr r).toNat → faults (.jr c w) 0x4031) ∧
      (∀ e ∈ sequencerTable, s.runs = true → s.frozen x.slot = false → q.brkDrain = false → q.brkHalt = false → q.mode = .run → q.inst = some x →
        (x.klen / 4 ≤ q.pc.toNat → faults (e.2 c w) 0x4031) ∧
        (q.pc.toNat < x.klen / 4 → s.brkAt x q.pc = false → decodeSeqWord c (s.kernelWord c x q.pc.toNat) = none →
          faults (e.2 c w) 0x4030))) ∧
  (∀ (s : State) (c : PCore) (w : BitVec 26) (x : Inst), ∀ e ∈ commandTable, s.issues c e.1 w x →
      s.regsReady c [2 * fld w 13 10, 2 * fld w 13 10 + 1] →
      let d := s.cmdOf c x e.1.toNat w
      (∀ code, checkCmd s.mgmt.chip (s.core c) (s.ctx x.slot) x.slot d = some code →
        exec (e.2 c w) s = .next (s.act fun s => s.fault c x.slot code)) ∧
      (fnOk e.1.toNat (fld w 9 0) = false → exec (e.2 c w) s = .next (s.act fun s => s.fault c x.slot 0x4030)) ∧
      (checkCmd s.mgmt.chip (s.core c) (s.ctx x.slot) x.slot d = none → emptyCmd d = false →
        (∃ o ∈ opnds d fun _ => false, s.opndBad c x d o = true) →
        exec (e.2 c w) s = .next (s.act fun s => s.fault c x.slot 0x4033)))

/-- R210: a sequencer instruction that is not the next to issue on its core (another word stands at the PC, the core has no
running instance, or it drains at a breakpoint) changes nothing: the command leaves the whole state as it is (log entry 7). -/
def Obligations.InstructionsWaitTheirTurn : Prop :=
  ∀ (s : State) (c : PCore) (w : BitVec 26), ∀ e ∈ sequencerTable, s.fetch c e.1 w = .held → exec (e.2 c w) s = .next s

/-- R221, R213, Table 10.4: GETS reads the special register that IMM names and GARITH clears the status; SETP sets one
predicate; ASET, AADD and ALEN write an address register; BRK of an unarmed context has no effect. Each moves to the next
word, and nothing else changes but the instruction count. -/
def Obligations.SpecialAndAddressRegisters : Prop :=
  ∀ (s : State) (c : PCore) (w : BitVec 26) (x : Inst), s.nextPc c < 16384 →
    let q := (s.core c).seq
    let d := fld w 25 21
    let a := fld w 20 16
    let imm := fld w 15 0
    let aD := fld w 25 22
    let aA := q.ar (fld w 21 18)
    let does (i : Instr) (f : Seq → Seq) : Prop := exec i s = .next (s.afterSeq c (s.nextPc c) f)
    (s.issues c 0x12 w x → s.regsReady c [d, a] → (a = 0 →
        (imm = 0 → does (.gets c w) fun q => q.setS d (q.arith.zeroExtend 64)) ∧
        (imm = 1 → does (.gets c w) fun q => { q.setS d (q.arith.zeroExtend 64) with arith := 0 }) ∧
        (imm = 3 → does (.gets c w) fun q => q.setS d (s.ctx x.slot).step) ∧
        (imm = 4 → does (.gets c w) fun q => q.setS d (BitVec.ofNat 64 s.clk.time)) ∧
        (imm = 5 → does (.gets c w) fun q => q.setS d s.bel.count) ∧
        (imm = 6 → ∀ n, s.icoreOf c = some n → does (.gets c w) fun q => q.setS d (BitVec.ofNat 64 n)) ∧
        (imm = 7 → does (.gets c w) fun q => q.setS d (BitVec.ofNat 64 c.val)) ∧
        (imm = 8 → does (.gets c w) fun q => q.setS d (q.preds.zeroExtend 64)) ∧
        (imm = 9 → does (.gets c w) fun q => q.setS d (q.posted.zeroExtend 64))) ∧
      (imm = 2 → (q.sr a).toNat % 256 < (s.ctx x.slot).layers →
        does (.gets c w) fun q' => q'.setS d (BitVec.ofNat 64 (((s.ctx x.slot).fmt.find ((q.sr a).toNat % 256)).getD {}).fmt))) ∧
    (s.issues c 0x13 w x → s.regsReady c [a] → d = 0 → fld w 15 4 = 0 → imm < x.npred →
      ∃ v : W16, (does (.setp c w) fun q => { q with preds := v }) ∧
        ∀ i < 16, v.getLsbD i = if i = imm then decide (q.sr a ≠ 0) else q.preds.getLsbD i) ∧
    (s.issues c 0x14 w x → s.regsReady c [fld w 17 13] → fld w 21 18 = 0 → fld w 12 0 = 0 →
      does (.aset c w) fun q => q.setA aD (q.sr (fld w 17 13))) ∧
    (s.issues c 0x16 w x → fld w 17 13 = 0 →
      ∃ v : W64, (does (.aadd c w) fun q => q.setA aD v) ∧ v.extractLsb' 32 32 = aA.extractLsb' 32 32 ∧
        v.extractLsb' 0 32 = aA.extractLsb' 0 32 + (w.extractLsb' 0 13).signExtend 32) ∧
    (s.issues c 0x17 w x → fld w 17 13 = 0 →
      ∃ v : W64, (does (.alen c w) fun q => q.setA aD v) ∧ v.extractLsb' 56 8 = aA.extractLsb' 56 8 ∧
        v.extractLsb' 32 24 = (w.extractLsb' 0 13).zeroExtend 24 ∧ v.extractLsb' 0 32 = aA.extractLsb' 0 32) ∧
    (s.issues c 0x3E w x → d = 0 → a = 0 → (s.ctx x.slot).brk = none → does (.brk c w) id)

/-- R220, R246, Table 10.4: SLD reads, and SST writes, the 8 bytes at byte OFFSET × 64 + IMM of aA, here through a handle of a
scratch memory that is not versioned. SLD writes sd alone of the registers and changes no memory; SST changes these 8 bytes
of memory alone and no register. Through the handle of a ring inbox both fault with SEQ_OPERAND (0x4033). -/
def Obligations.ScalarMemoryAccess : Prop :=
  ∀ (s : State) (c : PCore) (w : BitVec 26) (x : Inst) (e : HEnt), s.nextPc c < 16384 →
    let q := (s.core c).seq
    let d := fld w 25 21
    let off := arOff (q.ar (fld w 20 17)) * 64 + fld w 16 0
    let unit := off / 64 * 64
    let at' := e.base * 64 + off
    s.regsReady c [d] → fld w 16 0 % 8 = 0 →
    ((s.core c).ringNamed x.slot (arHandle (q.ar (fld w 20 17))) = true →
      (s.issues c 0x10 w x → exec (.sld c w) s = .next (s.act fun s => s.fault c x.slot 0x4033)) ∧
      (s.issues c 0x11 w x → exec (.sst c w) s = .next (s.act fun s => s.fault c x.slot 0x4033))) ∧
    ((s.core c).ringNamed x.slot (arHandle (q.ar (fld w 20 17))) = false → e.mem < 5 → e.cls ≠ 1 →
    (s.issues c 0x10 w x → (s.core c).translate x.slot (arHandle (q.ar (fld w 20 17))) unit 64 false = .ok e →
      s.busyWrite c (s.rangesOf c x.slot (arHandle (q.ar (fld w 20 17))) unit 64) = false →
      (s.core c).readOk c e.mem (slotsOf e [(unit, 64)]) = true →
      ∃ t, exec (.sld c w) s = .next t ∧ s.sameMemories t ∧ s.sameCoresBut t c ∧
        (t.core c).seq = (q.setS d (BitVec.ofNat 64 (leNat (((s.core c).mem e.mem).readBytes at' 8)))).issued (s.nextPc c)) ∧
    (s.issues c 0x11 w x → (s.core c).translate x.slot (arHandle (q.ar (fld w 20 17))) unit 64 true = .ok e →
      s.busyWrite c (s.rangesOf c x.slot (arHandle (q.ar (fld w 20 17))) unit 64) = false →
      s.busyRead c (s.rangesOf c x.slot (arHandle (q.ar (fld w 20 17))) unit 64) = false →
      (s.core c).writeOk c e.mem (slotsOf e [(unit, 64)]) = true → (s.core c).memoriesWf = true →
      ∃ t, exec (.sst c w) s = .next t ∧ s.sameCoresBut t c ∧ t.hostMem = s.hostMem ∧ t.devMem = s.devMem ∧
        (t.core c).seq.s = q.s ∧ (t.core c).seq.a = q.a ∧ (t.core c).seq.pc = BitVec.ofNat 14 (s.nextPc c) ∧
        ∀ m < 5, ∀ a, ((t.core c).mem m).read a =
          if m = e.mem ∧ at' ≤ a ∧ a < at' + 8 then (q.sr d).extractLsb' (8 * (a - at')) 8 else ((s.core c).mem m).read a))

/-- R222: a command instruction whose fields, mode pair and operands pass the checks of issue, and whose queue has room,
enters its unit's queue as the last command, with the address registers and the mode pair copied as they stand, and the
sequencer goes on at the next word; no memory changes. RECV then stalls the sequencer (R250). Where the queue holds 16
commands the instruction stalls, and a vector or table command of no elements costs its issue only (R422). -/
def Obligations.CommandsEnterTheirQueue : Prop :=
  ∀ (s : State) (c : PCore) (w : BitVec 26) (x : Inst), ∀ e ∈ commandTable,
    let q := (s.core c).seq
    let u := unitOf e.1.toNat
    let d₀ := s.cmdOf c x e.1.toNat w
    (s.issues c e.1 w x → s.regsReady c [2 * fld w 13 10, 2 * fld w 13 10 + 1] →
      checkCmd s.mgmt.chip (s.core c) (s.ctx x.slot) x.slot d₀ = none →
      (emptyCmd d₀ = true → s.nextPc c < 16384 → exec (e.2 c w) s = .next (s.afterSeq c (s.nextPc c) id)) ∧
      (emptyCmd d₀ = false → (∀ o ∈ opnds d₀ fun _ => false, s.opndBad c x d₀ o = false) → s.regBad c x d₀ = false →
        16 ≤ ((s.core c).queue u).length → exec (e.2 c w) s = .next s)) ∧
    (s.accepts c e.1 w x → ∃ t d, exec (e.2 c w) s = .next t ∧ s.sameMemories t ∧ s.sameCoresBut t c ∧
      (t.core c).queue u = (s.core c).queue u ++ [d] ∧ (∀ v, v ≠ u → (t.core c).queue v = (s.core c).queue v) ∧
      d.op = e.1.toNat ∧ d.fn = fld w 9 0 ∧ d.aD = q.ar (fld w 25 22) ∧ d.aA = q.ar (fld w 21 18) ∧ d.aB = q.ar (fld w 17 14) ∧
      d.m0 = q.sr (2 * fld w 13 10) ∧ d.m1 = q.sr (2 * fld w 13 10 + 1) ∧ d.inst = x ∧ d.started = false ∧
      (t.core c).seq.pc = BitVec.ofNat 14 (s.nextPc c) ∧ (t.core c).seq.s = q.s ∧ (t.core c).seq.a = q.a ∧
      (t.core c).seq.mode = (if e.1 = 0x35 then .recv else .run))

/-- R212, R214 to R216, R232: POST j sends the token of its operands to the Market and sets POSTED j; DONE with every output
posted reports the retirement and frees the core, which halts in push mode and waits at TAKE in pull mode; TAKE leaves the
sequencer blocked; WAIT goes on where its condition holds and blocks where it does not. Neither the registers of the
instance nor any memory change. -/
def Obligations.InstanceInstructions : Prop :=
  ∀ (s : State) (c : PCore) (w : BitVec 26) (x : Inst),
    let q := (s.core c).seq
    let j := fld w 25 22
    (s.issues c 0x3A w x → s.nextPc c < 16384 → fld w 10 0 = 0 → (bit w 12 = false → fld w 21 18 = 0) →
      (bit w 11 = false → fld w 17 13 = 0) → (bit w 11 = true → s.regsReady c [fld w 17 13]) → j < x.nout → bit q.posted j = false →
      s.quiet c x = true → q.wrote = [] →
      ∃ t, exec (.post c w) s = .next t ∧ s.sameMemories t ∧ s.sameCoresBut t c ∧
        t.mkt.inq.get c = s.mkt.inq.get c ++ [.post x j {
          ref := bit w 12, inl := bit w 11
          handle := if bit w 12 then arHandle (q.ar (fld w 21 18)) else 0, offset := if bit w 12 then arOff (q.ar (fld w 21 18)) else 0
          value := if bit w 11 then q.sr (fld w 17 13) else 0 }] ∧
        (∀ i < 16, (t.core c).seq.posted.getLsbD i = (decide (i = j) || q.posted.getLsbD i)) ∧
        (t.core c).seq.pc = BitVec.ofNat 14 (s.nextPc c) ∧ (t.core c).seq.s = q.s ∧ (t.core c).seq.a = q.a) ∧
    (s.issues c 0x3B w x → w = 0 → s.quiet c x = true → q.wrote = [] → q.posted.toNat = 2 ^ x.nout - 1 →
      (s.idleMode c = .take → s.nextPc c < x.klen / 4 ∧ opcodeOf (s.kernelWord c x (s.nextPc c)) = 0x3C) →
      ∃ t, exec (.done c w) s = .next t ∧ s.sameMemories t ∧ s.sameCoresBut t c ∧
        t.mkt.inq.get c = s.mkt.inq.get c ++ [.retire x (BitVec.ofNat 16 (q.preds.toNat % 2 ^ x.npred)) q.stat] ∧
        (s.idleMode c ≠ .take → (t.core c).seq.mode = .halt ∧ (t.core c).seq.inst = none) ∧
        (s.idleMode c = .take → (t.core c).seq.mode = .atTake ∧ (t.core c).seq.pc = BitVec.ofNat 14 (s.nextPc c))) ∧
    (s.wrap.hold = false → s.runs = true → q.mode = .atTake → q.inst = some x → w = 0 → s.kernelWord c x q.pc.toNat = seqWord 0x3C 0 →
      ∃ t, exec (.take c w) s = .next t ∧ s.sameMemories t ∧ s.sameCoresBut t c ∧
        (t.core c).seq.mode = s.idleMode c ∧ (t.core c).seq.inst = none ∧ (t.core c).seq.s = q.s) ∧
    (s.issues c 0x3D w x → fld w 25 21 = 0 → fld w 2 0 ≤ 3 → fld w 15 12 = 0 → fld w 7 3 = 0 →
      (fld w 2 0 < 2 → fld w 20 16 = 0) → (fld w 2 0 ≠ 1 → fld w 11 8 = 0) → (fld w 2 0 = 2 → s.regsReady c [fld w 20 16]) →
      s.nextPc c < 16384 →
      let met : Prop := match fld w 2 0 with
        | 0 => (s.core c).cmds = []
        | 1 => ∀ u < 4, bit w (8 + u) = true → (s.core c).queue u = []
        | 2 => (q.sr (fld w 20 16)).toNat ≤ s.clk.time
        | _ => fld w 20 16 ∉ q.pend
      (met → exec (.wait c w) s = .next (s.afterSeq c (s.nextPc c) id)) ∧
      (¬ met → ∃ t v, exec (.wait c w) s = .next t ∧ s.sameMemories t ∧ s.sameCoresBut t c ∧
        (t.core c).seq = { q with mode := .wait (w.extractLsb' 0 16) v }))

/-! ### Events of a core (chapters 4, 6, 10, 11, 16) -/

/-- R211, Table 10.2: kernel entry loads the registers of the dispatch record and begins at the kernel's word. Registers
that no line of the table names are zero, and so are the predicates, POSTED and the arithmetic status. -/
def Obligations.KernelEntryRegisters : Prop :=
  ∀ (s : State) (c : PCore) (i : Slot) (r : DispatchRec) (w0 w1 w2 w3 w4 w5 w6 w7 : W32),
    s.wrap.hold = false → s.runs = true → ((s.core c).seq.mode = .halt ∨ (s.core c).seq.mode = .take) →
    (s.core c).seq.slot = some r → r.slot = i.val → r.words = [w0, w1, w2, w3, w4, w5, w6, w7] → r.tokens.length ≤ 14 →
    ∃ t, exec (.kernelEntry c) s = .next t ∧ s.sameMemories t ∧ s.sameCoresBut t c ∧
      let q := (t.core c).seq
      q.mode = .run ∧ q.slot = none ∧ (∃ x, q.inst = some x ∧ x.slot = i ∧ x.task = fld w0 17 0 ∧ x.layer = fld w3 7 0) ∧
      q.pc.toNat = (fld w2 29 16 - (s.ctx i).kernBase / 4) % 16384 ∧
      q.sr 0 = w5 ++ w4 ∧ q.sr 1 = w1 ++ w0 ∧ q.sr 2 = w3.zeroExtend 64 ∧ q.sr 3 = w6 ++ w7 ∧
      (∀ p, ∀ k : Token, r.tokens[p]? = some k →
        q.sr (16 + p) = (if k.inl then k.value else 0) ∧ (k.ref = false → q.ar p = 0) ∧
        (k.ref = true → k.handle < 256 → k.offset < 2 ^ 32 → arHandle (q.ar p) = k.handle ∧ arOff (q.ar p) = k.offset)) ∧
      (∀ j, 4 ≤ j → j < 16 → q.sr j = 0) ∧ (∀ p, r.tokens.length ≤ p → q.sr (16 + p) = 0 ∧ q.ar p = 0) ∧
      q.preds = 0 ∧ q.posted = 0 ∧ q.arith = 0

/-- R232, R351, R353: a WAIT on TIME goes on once the time-stamp reaches its value; a sequencer about to issue an armed PC
stops issuing, and once its core has drained it halts, the Bell timer held where the set holds the Bell.
The model’s own readings in it: log entry 6. -/
def Obligations.WaitsAndBreakpoints : Prop :=
  ∀ (s : State) (c : PCore) (x : Inst), s.wrap.hold = false → s.runs = true →
    let q := (s.core c).seq
    (∀ imm v, q.mode = .wait imm v → q.inst = some x → fld imm 2 0 = 2 → s.nextPc c < 16384 →
      ∃ t, exec (.waitTimeReached c) s = .next t ∧ s.sameMemories t ∧ s.sameCoresBut t c ∧
        t.clk.time = max s.clk.time v.toNat ∧ (t.core c).seq = { q with mode := .run }.issued (s.nextPc c)) ∧
    (q.mode = .run → q.inst = some x → q.brkDrain = false → q.brkHalt = false → q.pc.toNat < x.klen / 4 →
      s.brkAt x q.pc = true → q.skipPc ≠ some q.pc →
      ∃ t code, exec (.breakpointHit c) s = .next t ∧ s.sameMemories t ∧ s.sameCoresBut t c ∧
        (t.core c).seq = { q with brkDrain := true, brkCode := code, skipPc := some q.pc }) ∧
    (q.mode = .run → q.inst = some x → q.brkDrain = true → s.quiet c x = true →
      ∃ t, exec (.breakpointHalt c) s = .next t ∧ (∀ k m, (t.core k).mem m = (s.core k).mem m) ∧ s.sameCoresBut t c ∧
        (t.core c).seq = { q with brkDrain := false, brkHalt := true, brkCode := none, brkStep := false } ∧
        t.dbg.holdFrom = (match (s.ctx x.slot).brk with
          | some b => if b.hold then some (s.dbg.holdFrom.getD s.clk.time) else s.dbg.holdFrom
          | none => s.dbg.holdFrom))

/-- R130, R214: a fill notice changes the slots that the sender fills on the receiving core, and leaves; the sender's POST or DONE
waits for the cores that have not acknowledged, and goes on with the last of them: POST sends its token, and DONE, with every output posted, its
retirement, and faults with OUTPUT_MISSING (0x3101) otherwise. The model’s own readings in it: log entry 22. -/
def Obligations.FillNoticesAcknowledged : Prop :=
  ∀ (s : State) (c src : PCore) (isDone : Bool) (sl : Slot) (x : Inst), c ≠ src → s.wrap.hold = false → s.runs = true →
    ((s.core c).notices.find? fun n => n.1 == src) = some (src, isDone, sl) → (s.core src).seq.inst = some x →
    let q := (s.core src).seq
    let told : Core := { (s.core c).publish src isDone with notices := (s.core c).notices.erase (src, isDone, sl) }
    (∀ out tok waits, q.mode = .posting out tok waits → s.nextPc src < 16384 →
      ∃ t, exec (.fillNotice c src) s = .next t ∧ s.sameMemories t ∧ t.core c = told ∧
        (waits.erase c ≠ [] → t.core src = { s.core src with seq := { q with mode := .posting out tok (waits.erase c) } }) ∧
        (waits.erase c = [] →
          (t.core src).seq.mode = .run ∧ t.mkt.inq.get src = s.mkt.inq.get src ++ [.post x out tok] ∧
          (t.core src).seq.pc = BitVec.ofNat 14 (s.nextPc src))) ∧
    (∀ waits, q.mode = .ending waits →
      (waits.erase c ≠ [] → exec (.fillNotice c src) s = .next
        ((s.modCore c fun _ => told).modSeq src fun q => { q with mode := .ending (waits.erase c) })) ∧
      (waits.erase c = [] → q.posted.toNat = 2 ^ x.nout - 1 →
        (s.idleMode src = .take → s.nextPc src < x.klen / 4 ∧ opcodeOf (s.kernelWord src x (s.nextPc src)) = 0x3C) →
        ∃ t, exec (.fillNotice c src) s = .next t ∧ s.sameMemories t ∧ t.core c = told ∧
          t.mkt.inq.get src = s.mkt.inq.get src ++ [.retire x (BitVec.ofNat 16 (q.preds.toNat % 2 ^ x.npred)) q.stat] ∧
          (s.idleMode src ≠ .take → (t.core src).seq.mode = .halt ∧ (t.core src).seq.inst = none) ∧
          (s.idleMode src = .take → (t.core src).seq.mode = .atTake ∧ (t.core src).seq.pc = BitVec.ofNat 14 (s.nextPc src))) ∧
      (waits.erase c = [] → q.posted.toNat ≠ 2 ^ x.nout - 1 → (s.ctx x.slot).state = .loaded →
        ∃ t, exec (.fillNotice c src) s = .next t ∧ (t.ctx x.slot).state = .torn ∧ (t.ctx x.slot).outcome = some (3, 0x3101)))

/-- R117, R118, R126 to R128: the command at the head of a unit's queue starts once its operands translate, their presence
allows them, and no earlier command in flight conflicts; SEND and RWRITE then hold one grant-table entry for each destination
core (R248, R251). Until the conflict is over the command does not start, and its stall is noted (Table 16.5). A changed word that its reads correct does not
keep it; one that they find uncorrectable ends its context (R336). The model’s own readings in it: log entries 82 and 83. -/
def Obligations.CommandsStart : Prop :=
  ∀ (s : State) (c : PCore) (u : CmdUnit) (d : Cmd) (rest : List Cmd), s.wrap.hold = false → s.runs = true →
    s.frozen d.inst.slot = false → (s.core c).queue (unitNum u) = d :: rest → d.started = false → (u ≠ .move → s.pwr.gated = false) →
    let l := opnds d (s.frozenRow c d.inst d)
    (s.blocked c (unitNum u) d = true → ∃ t, exec (.commandStart c ⟨u, none⟩) s = .next t ∧ s.sameMemories t ∧ s.sameCoresBut t c ∧
      (t.core c).seq = (s.core c).seq ∧ (t.core c).queue (unitNum u) = (if d.stalled = 0 then { d with stalled := 7 } else d) :: rest) ∧
    (s.blocked c (unitNum u) d = false → s.transFault c d.inst d l = none → s.presFault c d.inst d l = none →
      (d.op ≠ 0x34 → d.op ≠ 0x36 → ∃ t, exec (.commandStart c ⟨u, none⟩) s = .next t ∧ s.sameMemories t ∧ s.sameCoresBut t c ∧
        (t.core c).seq = (s.core c).seq ∧ (t.core c).queue (unitNum u) = { d with started := true, stalled := 0 } :: rest) ∧
      (d.op ≠ 0x34 → d.op ≠ 0x36 → ∀ w : Upset, upsetFatal w = false →
        ∃ t, exec (.commandStart c ⟨u, some w⟩) s = .next t ∧ (t.core c).queue (unitNum u) = { d with started := true, stalled := 0 } :: rest) ∧
      (d.op ≠ 0x34 → d.op ≠ 0x36 → ∀ w : Upset, upsetFatal w = true → (s.ctx d.inst.slot).state = .loaded →
        let p := bankWord w.bank.val w.word.toNat
        meetsAny [⟨w.core, p.1, p.2, p.2 + 16⟩] d.reads = true →
        ∃ t, exec (.commandStart c ⟨u, some w⟩) s = .next t ∧ (t.ctx d.inst.slot).state = .torn) ∧
      ((d.op = 0x34 ∨ d.op = 0x36) → (msgCores d).length ≤ (s.core c).freeGrants.length →
        ∃ t gids, exec (.commandStart c ⟨u, none⟩) s = .next t ∧
          (t.core c).queue (unitNum u) = { d with started := true, gids := gids, stalled := 0 } :: rest ∧ gids.length = (msgCores d).length ∧
          ∀ g ∈ gids, ∃ e, (t.core c).grants.at? g = some (some e) ∧ e.slot = d.inst.slot ∧ e.granted = false))

/-- R117, R118: a started command completes with the effect that its unit's rule gives it, leaves its queue, and returns
its result; where its unit raises a fault, its context is faulted instead. R225 to R229, R178 to R180: LDW loads the tile into the array, MMUL writes its
rows of partial sums and writes them out where OUT asks for it, PSOUT writes rows of partial sums out, VOP, VRED, VRAND and TEVAL write the values of their
operations, and TLOAD fills its slot, into scratch that is not versioned; no other byte of a memory changes. -/
def Obligations.CommandsComplete : Prop :=
  (∀ (s s₁ : State) (c : PCore) (u : CmdUnit) (d : Cmd) (rest : List Cmd), s.wrap.hold = false → s.runs = true →
    s.frozen d.inst.slot = false → (s.core c).queue (unitNum u) = d :: rest → d.started = true → (u ≠ .move → s.pwr.gated = false) → s.cmdReady c d = true →
    (s.runCmd c d = (s₁, none) → (∀ imm v, (s₁.core c).seq.mode ≠ .wait imm v) →
      ∃ t, exec (.commandComplete c u) s = .next t ∧ s₁.sameMemories t ∧
        (t.core c).queue (unitNum u) = ((s₁.core c).queue (unitNum u)).tail ∧
        (∀ k : PCore, k ≠ c → t.core k = s₁.core k) ∧ (t.core c).seq.s = (s₁.core c).seq.s ∧ (t.core c).seq.pc = (s₁.core c).seq.pc ∧
        (t.core c).seq.pend = if hasResult d.op then (s₁.core c).seq.pend.erase d.res else (s₁.core c).seq.pend) ∧
    (∀ code, s.runCmd c d = (s₁, some code) →
      exec (.commandComplete c u) s = .next (s.act fun _ => s₁.fault c d.inst.slot code))) ∧
  ∀ (s : State) (c : PCore) (u : CmdUnit) (d : Cmd) (m at' : Nat), s.completes c u d →
    let x := d.inst
    let n := mN d.m1
    let a := s.vecIn c x d d.aA (mFmtA d.m0) n
    let writes (parts : List (Nat × List Byte)) : Prop := ∃ t, exec (.commandComplete c u) s = .next t ∧ s.wrote t c m at' parts
    (∀ e, d.op = 0x20 →
      let fb := mFmtB d.m0
      let ext := if mSparse d.m0 = 2 then windowExtent fb (mBsB d.m0) (s.rdReg c x d d.aA 32) else tileExtent fb (mSparse d.m0) (mBsB d.m0)
      let bytes := s.rdReg c x d d.aA (roundUp ext 64)
      (mSparse d.m0 = 2 → ext ≤ arLen d.aA * 64) → (mSparse d.m0 = 1 → (sparseTile fb (mBsB d.m0) bytes).isSome = true) →
      (s.core c).translate x.slot (arHandle d.aA) (arOff d.aA * 64) (roundUp ext 64) false = .ok e →
      (s.core c).readOk c e.mem (slotsOf e [(arOff d.aA * 64, ext)]) = true →
      ∃ t, exec (.commandComplete c u) s = .next t ∧ s.sameMemories t ∧ (t.core c).tile =
        some { fmtB := fb, bsB := mBsB d.m0, sparse := mSparse d.m0, pass := fld d.m1 1 0, aA := d.aA, tile := bytes }) ∧
    (d.op = 0x21 → s.scratchAt c d d.aD m at' →
      let rows := mmulRows d.m0 d.m1 (s.rdReg c x d d.aA (mmulA d.m0 d.m1).1)
      let r := mmulRun d.m0 (s.core c).weightTile (s.rdReg c x d d.aD (mM d.m0 * 2048)) (s.frozenRow c x d) rows.zipIdx ([], false)
      let parts := r.1.map fun y => (y.1 * 2048, y.2.flatMap PEnt.bytes)
      let outs := (s.outPieces x d d.aB (r.1.map fun y => y.2.map fun p => p.num.scale (mOshift d.m0))).1
      r.2.2 = false → (mOut d.m0 = 0xF → writes parts) ∧
        (∀ m₂ at₂, mOut d.m0 ≠ 0xF → s.scratchAt c d d.aB m₂ at₂ → m₂ ≠ m → ∃ t, exec (.commandComplete c u) s = .next t ∧
          (t.core c).mem m = ((s.core c).mem m).writeParts at' parts ∧ (t.core c).mem m₂ = ((s.core c).mem m₂).writeParts at₂ outs)) ∧
    (s.scratchAt c d d.aD m at' →
      (d.op = 0x22 → writes (s.outPieces x d d.aD ((List.range (mM d.m0)).map fun r =>
        (entRow (s.rdReg c x d d.aA (mM d.m0 * 2048)) r).map fun p => p.num.scale (mOshift d.m0))).1) ∧
      (d.op = 0x24 →
        let k := f32 (d.m1.extractLsb' 0 32)
        let bm := mMaskg d.m0
        let bs := if vopTakesB d.fn && bm ≠ 2 then s.vecIn c x d d.aB (mFmtB d.m0) (if bm = 0 then n else ceilDiv n (mRlen d.m0)) else []
        let b (i : Nat) : Machine.Num := if bm = 2 then k else (bs[if bm = 0 then i else i / mRlen d.m0]?).getD .zero
        (d.fn = 11 ∨ d.fn = 12 → writes [(0, padUnits (packBits (a.zipIdx.map fun v => vopBit d.fn v.1 (b v.2))))]) ∧
        (d.fn = 13 → writes [(0, s.vecBytes d ((a.zip (s.bitsIn c x d d.aB n)).map fun v => if v.2 then v.1 else k))]) ∧
        (d.fn ≠ 11 → d.fn ≠ 12 → d.fn ≠ 13 → writes [(0, s.vecBytes d (a.zipIdx.map fun v => vopNum d.fn v.1 (b v.2) k))])) ∧
      (d.op = 0x25 →
        let rl := mRlen d.m0
        let b := if d.fn = 1 then s.vecIn c x d d.aB (mFmtB d.m0) n else if d.fn = 2 then s.vecIn c x d d.aB (mFmtB d.m0) (n / rl) else []
        let res := (List.range (n / rl)).map fun r => vredRow d.fn ((a.drop (r * rl)).take rl) (vredOther d.fn r rl b)
        (d.fn = 4 → writes [(0, padUnits (pack 32 (res.map (·.2))))]) ∧ (d.fn ≠ 4 → writes [(0, s.vecBytes d (res.map (·.1)))])) ∧
      (d.op = 0x26 →
        let word (i : Nat) : Nat := s.drawEl x d ((s.ctx x.slot).tidOf (arHandle d.aD)) (arOff d.aD * 16 + i)
        (d.fn = 0 → writes [(0, padUnits (pack 32 ((List.range n).map word)))]) ∧
        (d.fn ≠ 0 → writes [(0, padUnits (pack 32 ((List.range n).map fun i => f32Code (.fin false (word i / 256) (-24)))))])) ∧
      (∀ y, d.op = 0x29 → (s.core c).tables.at? (d.fn % 16) = some (some y) → y.owner = x.slot →
        writes [(0, s.vecBytes d (a.map (tableEval y.bytes (d.fn / 16 == 1))))])) ∧
    (d.op = 0x28 → d.fn < 16 →
      let bs := (s.rdReg c x d d.aA 24640).take 24608
      (∀ y, (s.core c).tables.at? d.fn = some (some y) → y.owner = x.slot) → tableBad bs = false →
      ∃ t, exec (.commandComplete c u) s = .next t ∧ s.sameMemories t ∧
        (t.core c).tables = (s.core c).tables.putN d.fn (some { owner := x.slot, bytes := bs }))

/-- R230: MOVE within a core, between scratch handles that are not versioned, copies aA.LEN × 64 bytes from aA to aD; every
other byte of every scratch memory is unchanged, and host and device memory too. R185, R194: STASH puts its item into the arena and its entry into the
directory's write, SLOAD writes the decoded item and ends it, SQUERY returns the tier. R173, R175: GACC adds its rounded contributions into the
delta half, GREAD writes the sums and with RETIRE takes them back. R248 to R250, R256, R260: SEND and RWRITE leave with the grants that they have, RECV copies the message
that it takes and returns its result word, WOPEN opens its window and WCLOSE shuts it. -/
def Obligations.MoveCopies : Prop :=
  (∀ (s : State) (c : PCore) (d : Cmd) (rest : List Cmd) (a b : HEnt), s.wrap.hold = false → s.runs = true →
    s.frozen d.inst.slot = false → (s.core c).queue 3 = d :: rest → d.started = true → d.op = 0x2C → fld d.m1 7 0 = 0xFF →
    (s.core c).handle d.inst.slot (arHandle d.aA) = some a → (s.core c).handle d.inst.slot (arHandle d.aD) = some b →
    (∀ r ∈ d.reads, r.mem < 5) → a.mem < 5 → b.mem < 5 → a.cls ≠ 1 → b.cls ≠ 1 → (s.core c).memoriesWf = true →
    ∃ t, exec (.commandComplete c .move) s = .next t ∧ t.hostMem = s.hostMem ∧ t.devMem = s.devMem ∧
      (∀ k : PCore, ∀ m < 5, ∀ p, ((t.core k).mem m).read p =
        if k = c ∧ m = b.mem ∧ b.base * 64 + arOff d.aD * 64 ≤ p ∧ p < b.base * 64 + arOff d.aD * 64 + arLen d.aA * 64
        then ((s.core c).mem a.mem).read (a.base * 64 + arOff d.aA * 64 + (p - (b.base * 64 + arOff d.aD * 64)))
        else ((s.core k).mem m).read p)) ∧
  ∀ (s : State) (c : PCore) (d : Cmd) (m at' : Nat), s.completes c .move d →
    let x := d.inst
    let k := s.ctx x.slot
    let entry (y : DirEnt) : RelKind := .stash (s.dirAddr c x (d.fn % 4)) y.bytes none
    let bad (o : Opnd) : Option W16 := s.lateFault c x d o
    let late (n : Nat) : Prop := bad { reg := d.aD, write := true, extent := roundUp n 64, parts := (runParts n).2 } = none
    let n₁ := arLen d.aA * 8
    (k.spillAddr ≠ 0 →
      (∀ (e : HEnt) q, d.op = 0x2E → d.seq = some q → x.layer ≠ 0xFF → (∀ y, s.dirEntry c x (d.fn % 4) = some y → y.live = false) →
        (s.core c).translate x.slot (arHandle d.aD) 0 0 true = .ok e → e.mem < 5 → e.cls ≠ 1 →
        let src := mFmtA d.m0
        let n := mN d.m1
        let r := stashItem (fieldN d.fn 4 2) (fieldN d.fn 6 5) src n
          (s.rdReg c x d d.aA (roundUp (if src = 0xF then ceilDiv n 8 else packedLen (fmtBits src) n) 64))
        let cur := (k.arenaOf c).1
        let p := if r.1 = 1 then fieldN d.fn 6 5 else 0
        let y : DirEnt := { gen := x.gen.toNat, live := true, enc := r.1, src := src, pred := p, elems := n, length := r.2.length, loc := cur / 64 }
        cur + roundUp r.2.length 4096 ≤ e.size * 256 → (s.core c).writeOk c e.mem (slotsOf e [(cur, r.2.length)]) = true →
        ∃ t, exec (.commandComplete c .move) s = .next t ∧ s.wrote t c e.mem (e.base * 64) [(cur, r.2)] ∧
          s.buffered t c d q (entry y) ∧
          (t.ctx x.slot).arenaOf c = (cur + roundUp r.2.length 4096, (k.arenaOf c).2.1 + 1, arHandle d.aD)) ∧
      (∀ y bytes sl q, d.op = 0x2F → d.seq = some q → x.layer ≠ 0xFF → s.dirEntry c x (d.fn % 4) = some y → y.live = true → y.tier ≠ 2 →
        late (decodedLen y.enc y.src y.elems) → s.stashBytes c x y = .ok (bytes, sl) → s.scratchAt c d d.aD m at' →
        ∃ t, exec (.commandComplete c .move) s = .next t ∧ s.wrote t c m at' [(0, padUnits (stashDecode y.enc y.src y.elems bytes))] ∧
          s.buffered t c d q (entry { y with live := false })) ∧
      (d.op = 0x30 → d.res < 32 → ∃ t, exec (.commandComplete c .move) s = .next t ∧ s.sameMemories t ∧
        (t.core c).seq.sr d.res = BitVec.ofNat 64 (if x.layer = 0xFF then 3 else match s.dirEntry c x (d.fn % 4) with | some y => y.tier | none => 3))) ∧
    (∀ (e : HEnt) (r : RegSt), d.op = 0x31 → fld d.m1 7 0 = 0xFF → (s.core c).handle x.slot (arHandle d.aD) = some e →
      let first := e.base * 8 + arOff d.aD * 8
      let rows := s.gaccRows c x d first
      (s.core c).gaccFault x first (gaccSpan d) = .ok r → (∀ v ∈ rows.flatMap (·.2), v.isFin = true) →
      ∃ t, exec (.commandComplete c .move) s = .next t ∧ t.devMem = s.devMem ∧
        ((r.clipped = true ∨ ∀ w ∈ rows, ∀ v ∈ w.2, gabClip (gabRound r.g v) = gabRound r.g v) → t.hostMem = s.hostMem) ∧
        (t.core c).delta = rows.foldl (fun m w => w.2.zipIdx.foldl (fun m v =>
          gabWrite m (w.1 + v.2) (gabRead m (w.1 + v.2) + gabClip (gabRound r.g v.1))) m) (s.core c).delta ∧
        (∀ l : PCore, ∀ n < 5, (l ≠ c ∨ n ≠ 3) → (t.core l).mem n = (s.core l).mem n)) ∧
    (∀ (first : Nat) (r : RegSt), d.op = 0x32 → s.gabRange c x d n₁ = .ok (first, r) → (d.fn = 1 → x.atomic = r.flow) → m < 3 → s.scratchAt c d d.aD m at' →
      let sum (j : Nat) : Int := gabRead (s.core c).base (first + j) + gabRead (s.core c).delta (first + j)
      ∃ t, exec (.commandComplete c .move) s = .next t ∧ t.hostMem = s.hostMem ∧ t.devMem = s.devMem ∧
        (t.core c).mem m = ((s.core c).mem m).writeParts at' [(0, padUnits (pack 32
          ((List.range n₁).map fun j => (writeOut 8 0 false 0 (Num.ofInt (sum j) r.g)).code)))] ∧
        (t.core c).delta = (if d.fn = 1 then (List.range n₁).foldl (fun m j =>
          gabWrite m (first + j) (retireDelta (gabRead (s.core c).base (first + j)))) (s.core c).delta else (s.core c).delta)) ∧
    (∀ q, (d.op = 0x34 ∨ d.op = 0x36) → d.seq = some q → ∃ t, exec (.commandComplete c .move) s = .next t ∧ s.sameMemories t ∧
      s.buffered t c d q (.mesh ((d.gids.filter fun g => !d.nacked.contains g).filterMap fun g => match (s.core c).grants.at? g with
        | some (some e) => some (s.meshSrc c, { hdr := { e.hdr with kind := if d.op = 0x36 then kWrite else kMessage, units := arLen d.aA },
                                                data := s.rdReg c x d d.aA (arLen d.aA * 64), slot := x.slot.val })
        | _ => none))) ∧
    (∀ n, d.op = 0x35 → d.res < 32 → s.recvPick c x d = some n → s.scratchAt c d d.aD m at' →
      (∀ b u pad, (s.core c).inbox x.slot n = some b → b.waitq = [] → s.ringFirst c b = some (u, pad) →
        let len := fld (s.ringHead c b u) 31 0
        let hdr := MsgHdr.unpack (BitVec.ofNat 256 (leNat ((s.core c).act.readBytes (b.base + 64 * u + 8) 32)))
        late len → ∃ t, exec (.commandComplete c .move) s = .next t ∧
          s.wrote t c m at' [(0, (s.core c).act.readBytes (b.base + 64 * u + 64) len)] ∧ (t.core c).seq.sr d.res = recvWord hdr.tag n len) ∧
      (∀ w, w = (s.core c).win n → (s.core c).inbox x.slot n = none → late w.len → ∃ t, exec (.commandComplete c .move) s = .next t ∧
          s.wrote t c m at' [(0, (s.core c).act.readBytes w.lo w.len)] ∧ (t.core c).seq.sr d.res = recvWord w.tag n w.len)) ∧
    (∀ e : HEnt, d.op = 0x37 → d.res < 32 →
      let w := (s.core c).win (d.fn % 16)
      let lo := e.base * 64 + arOff d.aD * 64
      let len := arLen d.aD * 64
      w.isOpen = false → (s.core c).translate x.slot (arHandle d.aD) (arOff d.aD * 64) len true = .ok e →
      (∀ j ∈ slotsOf e [(arOff d.aD * 64, len)], ((s.core c).presAt e.mem j).state = 0) →
      ∃ t, exec (.commandComplete c .move) s = .next t ∧ t.devMem = s.devMem ∧ ((s.core c).reqq = [] → t.hostMem = s.hostMem) ∧
        (t.core c).act = (if d.fn / 16 = 1 then (s.core c).act.clear lo len else (s.core c).act) ∧
        (t.core c).seq.sr d.res = (w.gen + 1).zeroExtend 64 ∧
        let y := (t.core c).win (d.fn % 16)
        y.isOpen = true ∧ y.owner = some x ∧ y.gen = w.gen + 1 ∧ y.lo = lo ∧ y.len = len ∧ y.combining = decide (d.fn / 16 = 1)) ∧
    (d.op = 0x38 → d.fn < 16 → ∃ t, exec (.commandComplete c .move) s = .next t ∧ s.sameMemories t ∧
      let w := (s.core c).win d.fn
      ((w.isOpen = true ∧ w.owner = some x) → (t.core c).win d.fn = w.shut) ∧
      (¬ (w.isOpen = true ∧ w.owner = some x) → (t.core c).wins = (s.core c).wins))

/-- R133: the result at the head of the sequence leaves the release buffer and the next number is due; the bytes of a
write to device memory through a handle that is not versioned are written there, and nowhere else. The model’s own readings in it: log entry 3. -/
def Obligations.ResultsLeaveInOrder : Prop :=
  ∀ (s : State) (c : PCore) (r : RelItem), s.wrap.hold = false → s.runs = true →
    s.frozen r.slot = false → ((s.core c).relBuf.find? fun y => y.seq == (s.core c).nextRel) = some r → (s.core c).relSkip = [] →
    ((∃ items, r.kind = .mesh items) →
      ∃ t, exec (.orderedRelease c) s = .next t ∧ (t.core c).nextRel = (s.core c).nextRel + 1 ∧
        (t.core c).relBuf = ((s.core c).relBuf.filter fun y => y.seq != r.seq) ∧
        (t.core c).seq = { (s.core c).seq with wrote := (t.core c).seq.wrote }) ∧
    (∀ h off bytes priv readers e, r.kind = .write c h [(off, bytes)] priv readers → (s.core c).handle r.slot h = some e →
      e.mem = 5 → e.cls ≠ 1 → bytes ≠ [] → s.pwr.lost = false →
      ∃ t, exec (.orderedRelease c) s = .next t ∧ (t.core c).nextRel = (s.core c).nextRel + 1 ∧
        (t.core c).relBuf = ((s.core c).relBuf.filter fun y => y.seq != r.seq) ∧
        t.hostMem = s.hostMem ∧ t.devMem = s.devMem.writeBytes ((s.ctx r.slot).copyBase e false + off) bytes)

/-! ### The Market (chapters 3 and 4) -/

/-- R67 to R69, R75 to R78, R89, R240: of the arrivals that wait, the earliest of the highest level is handled. One of an earlier
generation, or of a context with no slice in service, is discarded and counted; one of a later is reported with GEN_AHEAD
(0x3103). Every other meets its instance as a data token, a skip or a control arrival, and counts it down; the first creates the
instance, at the level of its PRIO and its context's, or tears the context down with TASKS_OVER_PEAK (0x3104) or TASK_RECORD_BAD
(0x3102). An arrival at a port that has had its own is DUP_TOKEN (0x3105). The model’s own readings in it: log entries 26, 75 and 78. -/
def Obligations.ArrivalsMeetInstances : Prop :=
  ∀ (s : State) (a : Arrival) (rest : List Arrival), s.wrap.hold = false → s.runs = true → takeHigh Arrival.level s.mkt.arrivals = some (a, rest) →
    let k := s.ctx a.slot
    let now : Prop := k.draining = false ∧ k.slice ≠ none ∧ a.gen = k.igen
    let torn (code : W16) (upset : Bool) : Prop := k.state = .loaded →
      ∃ t, exec (.arrival upset) s = .next t ∧ (t.ctx a.slot).state = .torn ∧ (t.ctx a.slot).outcome = some (3, code)
    (∀ upset, k.draining = true ∨ k.slice = none ∨ serialCompare a.gen k.igen = .less →
      ∃ t, exec (.arrival upset) s = .next t ∧ t.mkt = { s.mkt with arrivals := rest } ∧ t.cores = s.cores ∧
        (t.ctx a.slot).counters.get 14 = k.counters.get 14 + 1 ∧ t.globalCounter 0x1A04 = s.globalCounter 0x1A04 + 1) ∧
    (∀ upset, k.draining = false → k.slice ≠ none → serialCompare a.gen k.igen = .greater →
      ∃ t, exec (.arrival upset) s = .next t ∧ t.mkt = { s.mkt with arrivals := rest } ∧ t.ctxs = s.ctxs ∧ t.cores = s.cores ∧
        (s.ev.windows = [] → s.evRoom = false → s.trc.src ≠ 1 → ∃ w, t.ev.windows = [w] ∧ w.code = 0x3103)) ∧
    (∀ upset idx e, now → s.mkt.instanceOf a.slot a.task = some (idx, e) → a.port < 16 →
      (upset = true ∨ bit e.dataMask a.port = true ∨ bit e.skipMask a.port = true) →
      exec (.arrival upset) s = .next (s.act fun s =>
        (({ s with mkt := { s.mkt with arrivals := rest } } : State).arrivalTaken a).teardown a.slot 0x3105 0 (oMarket 1))) ∧
    (∀ idx e im sl, now → k.slice = some sl → k.image = some im → s.mkt.instanceOf a.slot a.task = some (idx, e) →
      s.mkt.tasks.find idx = some e → e.rcd.ports ≤ 16 → s.meetsInstance a rest idx e im sl (exec (.arrival false) s)) ∧
    (∀ im sl, now → k.slice = some sl → k.image = some im → s.mkt.instanceOf a.slot a.task = none →
      let bs := s.taskBytes im a.task
      let r := TaskRec.ofBytes bs
      let good := !taskReserved bs && decide (a.task < im.tasks) && !r.indexBad im.edgeCount im.cores im.layers im.kernelLen
      let e : TaskEnt := { slot := a.slot, gen := k.igen, task := a.task, rcd := r, count := r.dep, level := min r.prio k.policy.prio }
      (∀ upset, im.peakTasks ≤ s.mkt.entries a.slot → torn 0x3104 upset) ∧
      (∀ upset, s.mkt.entries a.slot < im.peakTasks → good = false → torn 0x3102 upset) ∧
      (s.mkt.entries a.slot < im.peakTasks → good = true → r.ports ≤ 16 →
        ∃ idx, s.meetsInstance a rest idx e im sl (exec (.arrival false) s)))

/-- R73, R76, R89, R200: an accepted POST sends its token along each unconditional data edge of the output, in edge order and at the
instance's level (R240), and keeps one copy for the conditional ones; a retirement sends what its other edges carry, frees the
instance's entry and the tokens on its list, counts it retired and joins its layer's statistics. A message of an instance that
is gone is discarded and counted; a copy past the reservation of the image tears the context down (TOKENS_OVER_PEAK, 0x3107), and one for which the
pool has no room waits at the core's queue. -/
def Obligations.PostsAndRetirements : Prop :=
  ∀ (s : State) (c : PCore) (x : Inst) (rest : List MktMsg), s.wrap.hold = false → s.runs = true →
    let k := s.ctx x.slot
    let gone (t : State) : Prop := t.mkt = { s.mkt with inq := s.mkt.inq.put c rest } ∧ t.cores = s.cores ∧
      (t.ctx x.slot).counters.get 14 = k.counters.get 14 + 1 ∧ t.globalCounter 0x1A04 = s.globalCounter 0x1A04 + 1
    (∀ out tok, takeHigh MktMsg.level (s.mkt.inq.get c) = some (.post x out tok, rest) →
      exec (.retirement c) s = .next s ∧
      (s.entryOf x = none → ∃ t, exec (.postAccept c) s = .next t ∧ gone t) ∧
      ∀ e, s.entryOf x = some e →
        let sent := ((s.edges e).filter fun d => d.port < 16 && d.out == out && !d.cond).map fun d =>
          ({ slot := e.slot, gen := e.gen, task := d.target, port := d.port, kind := 0, tok := tok, level := e.level, core := some c } : Arrival)
        let live := s.mkt.live e.slot
        let room : Prop := live + s.mkt.ret e.slot < k.quota ∨ 0 < s.poolFree
        ((∀ d ∈ s.edges e, d.port < 16 → d.out = out → d.cond = false) →
          ∃ t, exec (.postAccept c) s = .next t ∧ t.mkt.inq.get c = rest ∧ t.mkt.tasks = s.mkt.tasks ∧ t.mkt.matching = s.mkt.matching ∧
            t.mkt.arrivals = s.mkt.arrivals ++ sent ∧ t.ctxs = s.ctxs ∧ t.cores = s.cores) ∧
        ((∃ d ∈ s.edges e, d.port < 16 ∧ d.out = out ∧ d.cond = true) → ∀ im, k.image = some im →
          (live + 1 ≤ im.peakTokens → room → ∃ t j, exec (.postAccept c) s = .next t ∧ t.mkt.inq.get c = rest ∧
            t.mkt.arrivals = s.mkt.arrivals ++ sent ∧ t.mkt.tasks.find x.idx = some { e with list := e.list ++ [j] } ∧
            t.mkt.matching.find j = some { slot := e.slot, gen := e.gen, task := e.task, port := 16 + out, tok := tok } ∧
            t.ctxs = s.ctxs ∧ t.cores = s.cores) ∧
          (im.peakTokens ≤ live → k.state = .loaded → ∃ t, exec (.postAccept c) s = .next t ∧ (t.ctx x.slot).state = .torn ∧
            (t.ctx x.slot).outcome = some (3, 0x3107)) ∧
          (live + 1 ≤ im.peakTokens → ¬ room → (∀ y ∈ s.mkt.tasks, y.2.slot = e.slot → y.2.retained = false) →
            ∃ t, exec (.postAccept c) s = .next t ∧ t.mkt.inq = s.mkt.inq ∧ t.mkt.arrivals = s.mkt.arrivals ∧
              t.mkt.tasks = s.mkt.tasks ∧ t.mkt.poolWait = true ∧ t.ctxs = s.ctxs ∧ t.cores = s.cores))) ∧
    (∀ preds stat, takeHigh MktMsg.level (s.mkt.inq.get c) = some (.retire x preds stat, rest) →
      exec (.postAccept c) s = .next s ∧
      (s.entryOf x = none → ∃ t, exec (.retirement c) s = .next t ∧ gone t) ∧
      ∀ e, s.entryOf x = some e →
        let held (out : Nat) : Token :=
          (((e.list.filterMap (fun j => s.mkt.matching.find j)).find? fun m => m.port == 16 + out).map (·.tok)).getD {}
        ∃ t, exec (.retirement c) s = .next t ∧ t.mkt.inq.get c = rest ∧ t.mkt.tasks.find x.idx = none ∧
          (∀ j ∈ e.list, t.mkt.matching.find j = none) ∧
          t.mkt.arrivals = s.mkt.arrivals ++ (s.edges e).filterMap (e.carries c preds held) ∧ t.cores = s.cores ∧
          t.globalCounter 0x1A01 = s.globalCounter 0x1A01 + 1 ∧
          (x.layer = 0xFF → (t.ctx x.slot).statRun = k.statRun) ∧
          (x.layer ≠ 0xFF → (t.ctx x.slot).statRun.find x.layer = some (((k.statRun.find x.layer).getD {}).join stat)) ∧
          ∀ sl, k.slice = some sl → ∃ sl', (t.ctx x.slot).slice = some sl' ∧ sl'.retired = sl.retired + 1 ∧ sl'.skipped = sl.skipped)

/-- R80 to R85: in a cycle where one pitch, in any mode without PREEMPT, has one candidate and one free core that may run it, the
instance is dispatched: the core's dispatch slot takes the record of Table 4.4, the entry is in service on that core, it
leaves its ready list, and the rotation goes on with the next pitch; with no candidate and no core reserved the cycle changes nothing. R86: a pre-emption kill that reaches its victim before
any output-side effect gives up the instance, which goes to the head of its ready list for a re-run, and reserves the core
for the candidate; after such an effect the kill is refused. The model’s own readings in it: log entry 25. -/
def Obligations.DispatchAndPreemption : Prop :=
  (∀ (s : State) (p : Pitch) (c : PCore) (ic idx : Nat) (e : TaskEnt), s.wrap.hold = false → s.runs = true →
      (s.pit p).state = 2 → (∀ r : Pitch, r ≠ p → (s.pit r).state ≠ 2) → bit (s.pit p).mode 2 = false → s.mkt.reserved.get p = none →
      s.candidates p = [(idx, e)] → s.freeCores p = [(c, ic)] → s.canRun p e c ic = true → s.flowConflict p e = false →
      ∃ t, exec (.dispatchSelect none) s = .next t ∧ (t.core c).seq.slot = some (s.dispatchRecord idx e) ∧
        t.mkt.tasks.find idx = some { e with state := 4, core := c.val, order := s.mkt.order, retained := false, list := [] } ∧
        idx ∉ t.readyAt (s.listOf e) ∧ t.mkt.rotation = (p.val + 1) % 16 ∧ s.sameMemories t ∧ s.sameCoresBut t c) ∧
  (∀ (s : State), (∀ p : Pitch, s.mkt.reserved.get p = none ∧ ((s.pit p).state = 2 → s.candidates p = [])) → exec (.dispatchSelect none) s = .next s) ∧
  (∀ (s : State) (c : PCore) (p : Pitch) (x : Preempt) (e : TaskEnt) (i : Inst), s.wrap.hold = false → s.runs = true →
      s.mkt.preempt.get p = some x → x.core = c → (∀ r : Pitch, r ≠ p → ∀ y, s.mkt.preempt.get r = some y → y.core ≠ c) →
      s.mkt.tasks.find x.victim = some e → (s.core c).seq.inst = some i → i.idx = x.victim → (s.core c).seq.mode ≠ .atTake →
      ((s.core c).seq.preemptible = false →
        exec (.preemptAck c) s = .next { s with
          mkt := { s.mkt with preempt := s.mkt.preempt.put p none }
          cores := s.cores.put c { s.core c with seq := { (s.core c).seq with killReq := false } } }) ∧
      ((s.core c).seq.preemptible = true → e.state = 3 → e.level < 4 →
        ∃ t, exec (.preemptAck c) s = .next t ∧ (t.core c).seq.inst = none ∧ (t.core c).seq.mode = .halt ∧ (t.core c).cmds = [] ∧
          t.mkt.tasks.find x.victim = some { e with state := 2, rerun := true, retained := false } ∧
          t.readyAt (s.listOf e) = x.victim :: s.readyAt (s.listOf e) ∧
          t.mkt.preempt.get p = none ∧ t.mkt.reserved.get p = some (c, x.cand)))

/-! ### The Bell and admission (chapters 2 and 6) -/

/-- R22, R31, R32: at its Bell a complete slice of a context that is not linked commits: the step counter advances, no
granule is DIRTY and the DIRTY ones have changed CUR, the running statistics are the committed ones, and no slice is in
service. R37, R38: at its Bell a slice that is not complete overruns: below the limit of its policy it is killed and due for
a re-run, with the step counter, the committed versions and the committed statistics as they were. -/
def Obligations.BellEndsSlices : Prop :=
  (∀ (s : State) (i : Slot) (sl : Slice), (s.ctx i).slice = some sl → sl.complete = true → (s.ctx i).held = none →
      (s.ctx i).group.linked = false →
      let c := s.ctx i
      let c' := (s.bellSlice i).ctx i
      c'.step = c.step + 1 ∧ c'.slice = none ∧ c'.desc = none ∧ c'.statCom = c.statRun ∧ c'.statRun = [] ∧ c'.outcome = some (0, 0) ∧
      c'.ver = c.ver.map (fun v => (v.1, v.2.flip)) ∧ c'.state = c.state ∧ c'.ctxGen = c.ctxGen ∧ c'.igen = c.igen) ∧
  (∀ (s : State) (i : Slot) (sl : Slice) (d : SubDesc), (s.ctx i).slice = some sl → sl.complete = false → (s.ctx i).held = none →
      (s.ctx i).group.linked = false → (s.ctx i).policy.teardown = false → (s.ctx i).desc = some d →
      d.overruns + 1 < (s.ctx i).policy.rerunLimit →
      let c := s.ctx i
      let c' := (s.bellSlice i).ctx i
      c'.step = c.step ∧ c'.slice = none ∧ c'.desc = some { d with rerun := true, overruns := d.overruns + 1 } ∧
      c'.statCom = c.statCom ∧ c'.outcome = some (1, 0x2001) ∧
      c'.ver = c.ver.map (fun v => (v.1, { v.2 with dirty := [] })) ∧ c'.state = c.state ∧ c'.ctxGen = c.ctxGen)

/-- R34, R35, R67: in an admission of a pitch whose one context that is considered passes the checks of Table 2.4, the slice
of an image without root tasks is admitted: a new instance generation, the seed in force latched unless it is a re-run, the entry tokens sent;
one that a check rejects completes, and one that a check defers stays. The model’s own readings in it: log entry 78. -/
def Obligations.AdmissionBeginsASlice : Prop :=
  ∀ (s : State) (p : Pitch) (i : Slot) (d : SubDesc) (im : Image), s.wrap.hold = false → s.runs = true → (s.pit p).admitDue = true →
    bit (s.pit p).evict 8 = false → s.admitOrder p = [i] → (s.ctx i).desc = some d → (s.ctx i).image = some im →
    (∀ code, s.admitCheck i im (s.bellBudget i) = .reject code → ∃ t, exec (.admission p) s = .next t ∧ (t.pit p).admitDue = false ∧
      (t.ctx i).slice = none ∧ (t.ctx i).desc = none ∧ (t.ctx i).step = (s.ctx i).step ∧ (t.ctx i).igen = (s.ctx i).igen) ∧
    (s.admitCheck i im (s.bellBudget i) = .defer → ∃ t, exec (.admission p) s = .next t ∧ (t.pit p).admitDue = false ∧
      (t.ctx i).slice = none ∧ (t.ctx i).desc = some d ∧ t.globalCounter 0x1A0A = s.globalCounter 0x1A0A + 1) ∧
    (s.admitCheck i im (s.bellBudget i) = .accept → (s.ctx i).boundOk im d.binds = true → im.roots = [] →
    ∃ t sl, exec (.admission p) s = .next t ∧ (t.pit p).admitDue = false ∧ (t.ctx i).slice = some sl ∧ sl.complete = false ∧
      (t.ctx i).igen = (s.ctx i).igen + 1 ∧ (t.ctx i).step = (s.ctx i).step ∧ (t.ctx i).draining = false ∧
      (t.ctx i).seed = (if d.rerun then (s.ctx i).seed else (s.ctx i).seedReg) ∧
      (t.ctx i).freeOn = (if d.rerun then (s.ctx i).freeOn else (s.ctx i).freeReg) ∧
      (∀ e ∈ d.entries, { slot := i, gen := (s.ctx i).igen + 1, task := e.1, port := e.2.1, kind := 0, tok := e.2.2, level := (s.ctx i).policy.prio } ∈ t.mkt.arrivals)) ∧
  ∀ (q : Pitch), (s.pit q).admitDue = false → exec (.admission q) s = .next s

/-- R135: a bank that has powered up is on and holds zeros, and no other byte of its core's memories changes. -/
def Obligations.BanksPowerUp : Prop :=
  ∀ (s : State) (c : PCore) (b : Fin 24), s.wrap.hold = false → s.runs = true → (s.core c).bankUp.getLsbD b = true →
    (s.core c).memoriesWf = true →
    ∃ t, exec (.bankPowerUpDone c b) s = .next t ∧ s.sameCoresBut t c ∧ t.hostMem = s.hostMem ∧ t.devMem = s.devMem ∧
      (∀ j < 24, (t.core c).bankOn.getLsbD j = (decide (j = b.val) || (s.core c).bankOn.getLsbD j) ∧
        (t.core c).bankUp.getLsbD j = (decide (j ≠ b.val) && (s.core c).bankUp.getLsbD j)) ∧
      ∀ m < 5, ∀ a, ((t.core c).mem m).read a =
        if firstBank m ≤ b.val ∧ b.val < firstBank m + memSize m / 524288 ∧ bankOf m a = b.val then 0 else ((s.core c).mem m).read a

/-- R294, R295: the block sleeps once the write of SLEEPING is acknowledged and the poll after it finds nothing new, while EN and
SLEEP_EN are 1; a doorbell that has moved keeps it awake, and the shadow status says SLEEPING 0 again. The model’s own readings
in it: log entries 3 and 4. -/
def Obligations.SleepAndWake : Prop :=
  ∀ (s : State), s.wrap.hold = false →
    let unacked := s.writing fun o => match o with | .shadow true => true | _ => false
    (s.runs = true → s.hst.sleepArm = true → unacked = false →
      (s.hst.advanced = false → s.poll.hst.advanced = false → s.hst.en = true → s.hst.sleepEn = true →
        ∃ t, exec .sleepConfirm s = .next t ∧ t.hst.sleeping = true ∧ t.hst.sleepArm = false) ∧
      ((s.hst.advanced = true ∨ s.poll.hst.advanced = true ∨ s.hst.en = false ∨ s.hst.sleepEn = false) →
        ∃ t, exec .sleepConfirm s = .next t ∧ t.hst.sleeping = s.hst.sleeping ∧ t.hst.sleepArm = false ∧
          (s.hst.en = true → s.pwr.lost = false → s.hostMem.wf = true →
            ∀ a, s.hst.shadow.toNat ≤ a → a < s.hst.shadow.toNat + 4 → t.hostMem.read a = 0))) ∧
    ((s.hst.sleepArm = false ∨ unacked = true) → exec .sleepConfirm s = .next s)

/-! ### Errors and teardown (chapters 5 and 15) -/

/-- R338, R108: a mesh timeout of a resident context that is not TORN tears it down: TORN, a new CTX_GEN, no slice in service,
no SUBMIT_SLICE unfinished, and the outcome of its Tally. A TORN context stays as it is, and a FREE slot has no context. -/
def Obligations.TeardownOfAContext : Prop :=
  ∀ (s : State) (c : PCore) (origin : W16) (i : Slot), s.wrap.hold = false → s.runs = true →
    ((s.ctx i).state ≠ .free → (s.ctx i).state ≠ .torn →
      ∃ t, exec (.meshTimeout c origin i) s = .next t ∧ (t.ctx i).state = .torn ∧ (t.ctx i).ctxGen = (s.ctx i).ctxGen + 1 ∧
        (t.ctx i).slice = none ∧ (t.ctx i).desc = none ∧ (t.ctx i).pending = none ∧ (t.ctx i).outcome = some (3, 0x4040) ∧
        (t.ctx i).step = (s.ctx i).step ∧ (t.ctx i).id = (s.ctx i).id ∧ (t.core c).counters.get 25 = (s.core c).counters.get 25 + 1) ∧
    ((s.ctx i).state = .torn → ∃ t, exec (.meshTimeout c origin i) s = .next t ∧ t.ctx i = s.ctx i) ∧
    ((s.ctx i).state = .free → exec (.meshTimeout c origin i) s = .next s)

/-- R333 to R337: a scratch word that the scrubber finds clean changes nothing but the scrubber's place, which goes on in ascending address;
a corrected word of a table slot is counted and keeps its owner; an uncorrectable word of a slice in service is
MEM_UE (0x5002) and of a constant tensor MEM_UE_COMMITTED (0x5003), which tear its context down; one of a shared row is its owner’s, by two of three tags; a row whose three owner tags all differ, or an uncorrectable word of the control domain is FATAL_ERROR, which ends every resident context and stops the Bell.
The model’s own readings in it: log entries 37 and 82. -/
def Obligations.ScrubbedWords : Prop :=
  ∀ (s : State), s.wrap.hold = false → s.runs = true → bit s.errs.ctrl 0 = true →
    (∀ c b n w, (s.core c).bankOn.getLsbD b.val = true → eccDecode w = .clean →
      (n.toNat = (s.errs.scrubAt.find (24 * c.val + b.val)).getD 0 → exec (.scrub (.scratch c b n) w) s = .next { s with
        errs := { s.errs with scrubAt := s.errs.scrubAt.insert (24 * c.val + b.val) ((n.toNat + 1) % 32768) } }) ∧
      (n.toNat ≠ (s.errs.scrubAt.find (24 * c.val + b.val)).getD 0 → exec (.scrub (.scratch c b n) w) s = .next s)) ∧
    (∀ c i a w sym v, eccDecode w = .corrected sym v →
      ∃ t, exec (.scrub (.tableSlot c i a) w) s = .next t ∧ (t.core c).counters.get 24 = (s.core c).counters.get 24 + 1 ∧
        (t.core c).tables = (s.core c).tables ∧ t.ctxs = s.ctxs) ∧
    (∀ c b n w e, (s.core c).bankOn.getLsbD b.val = true → eccDecode w = .uncorrectable →
      let at' := bankWord b.val n.toNat
      at'.1 < 3 → (s.core c).handles.find? (fun e => e.covers at'.1 at'.2) = some e → (s.ctx e.slot).state = .loaded →
      (e.cls = 0 → (s.ctx e.slot).slice ≠ none →
        ∃ t, exec (.scrub (.scratch c b n) w) s = .next t ∧ (t.ctx e.slot).state = .torn ∧ (t.ctx e.slot).outcome = some (3, 0x5002)) ∧
      (e.cls = 2 → ∃ t, exec (.scrub (.scratch c b n) w) s = .next t ∧ (t.ctx e.slot).state = .torn ∧
        (t.ctx e.slot).outcome = some (3, 0x5003) ∧ (t.ctx e.slot).noResume = true)) ∧
    (∀ c r a w f i, eccDecode w = .uncorrectable → s.rowOwner (.coreShared c r a f 0) = some i → (s.ctx i).state = .loaded →
      ∃ t, exec (.scrub (.coreShared c r a f 0) w) s = .next t ∧ (t.ctx i).state = .torn ∧ (t.ctx i).outcome = some (3, 0x5002)) ∧
    (∀ c r a w f1 f2, f1 ≠ 0 → f2 ≠ 0 → f1 ≠ f2 →
      ∃ t, exec (.scrub (.coreShared c r a f1 f2) w) s = .next t ∧ t.errs.fatal = true) ∧
    (∀ a w, eccDecode w = .uncorrectable →
      ∃ t, exec (.scrub (.control a) w) s = .next t ∧ t.errs.fatal = true ∧ t.bel.running = false ∧
        ∀ i, (s.ctx i).state ≠ .free → (t.ctx i).state = .torn)

/-- R342 to R344, R423: a self-test mismatch of a column in use is suspected, and counts when its repeat mismatches too; a
sweep goes on word by word and is done with the last word of its bank; the copy of a core moves its memories to the spare; the oldest window of the
coalescer closes and its record is queued. The model’s own readings in it: log entry 38. -/
def Obligations.SparesAndWindows : Prop :=
  ∀ (s : State) (c : PCore), s.wrap.hold = false → s.runs = true →
    (∀ crcs : List W32, bit s.errs.ctrl 2 = true → (s.core c).retired = false → s.pwr.gated = false → (s.core c).queue 0 = [] →
      s.cfg.refs.length = 130 →
      ∃ t, exec (.selftest c crcs) s = .next t ∧ s.sameCoresBut t c ∧ s.sameMemories t ∧
        ∀ j < 128, (∀ n, (j, n) ∉ (s.core c).colsUsed) → crcs[j]? ≠ s.cfg.refs[j]? →
          (j ∉ (s.core c).suspect → j ∈ (t.core c).suspect) ∧
          (j ∈ (s.core c).suspect → j ∉ (t.core c).suspect ∧ partColumn j ∈ (t.core c).trigger)) ∧
    (∀ (b : Fin 24) (x : Sweep) w, (s.core c).bankOn.getLsbD b.val = true → (s.core c).sweeps = [x] → x.bank = b.val → x.done = false → eccDecode w = .clean →
      exec (.sweep c ⟨b, w⟩) s = .next { s with cores := s.cores.put c { s.core c with
        sweeps := [{ x with next := x.next + 1, done := decide (32767 ≤ x.next) }] } }) ∧
    (∀ x, s.errs.subst = some x → x.old = c → x.new ≠ c → x.copying = true → x.copied = false →
      (∀ p, s.pitchOf c = some p → ∀ i ∈ s.residents p, (s.ctx i).slice = none) →
      ∃ t, exec (.coreCopy c) s = .next t ∧ (∀ m, (t.core x.new).mem m = (s.core c).mem m) ∧
        (t.core x.new).imem = (s.core c).imem ∧ (t.core x.new).lcore = some x.lcore ∧ (t.core c).retired = true) ∧
    (∀ w rest, s.ev.windows = w :: rest → s.evRoom = false → w.code.toNat / 4096 ≠ 1 → w.code ≠ 0x4040 →
      s.ev.high.length + s.ev.low.length < 1024 →
      ∃ t, exec .coalesceWindowClose s = .next t ∧ t.ev.windows = rest ∧ t.ev.high = s.ev.high ++ [w] ∧ t.ev.low = s.ev.low)

/-- R242: a queue instance that stays non-empty for the stale time is reported once with QUEUE_STALE (0x6002), until its
consumer takes an item. R243: where the two copies of the pointers of the event egress differ, it loses what it holds, which
is counted as lost, and QUEUE_RESET (0x6001) is reported. The model’s own readings in it: log entry 26. -/
def Obligations.QueuesReported : Prop :=
  (∀ (s : State) (q : QueueRef), s.wrap.hold = false → s.runs = true → fld s.cfg.qstale 23 0 ≠ 0 → q.kind.toNat ≤ 8 →
      let o := ownedRef q
      bit s.cfg.qstale (24 + staleGroup q.kind.toNat) = true → s.queueHolds o = true →
      (o ∉ s.cfg.staleSaid → s.ev.windows = [] → s.evRoom = false → s.trc.src ≠ 1 →
        ∃ t w, exec (.queueStale q) s = .next t ∧ t.cfg.staleSaid = s.cfg.staleSaid ++ [o] ∧ t.ev.windows = [w] ∧ w.code = 0x6002 ∧
          w.slot = (match o.owner with | some i => i.val | none => 0x7F)) ∧
      (o ∈ s.cfg.staleSaid → exec (.queueStale q) s = .next s)) ∧
  (∀ (s : State) (q : QueueRef), s.wrap.hold = false → s.runs = true → q.kind = 6 → q.owner = none → s.ev.windows = [] →
      s.evRoom = false → s.trc.src ≠ 1 →
      ∃ t w, exec (.dispatchSelect (some q)) s = .next t ∧ t.ev.high = [] ∧ t.ev.low = [] ∧
        t.ev.lost = s.ev.lost + s.ev.high.length + s.ev.low.length ∧ t.ev.windows = [w] ∧ w.code = 0x6001 ∧ w.slot = 0x7F)

/-! ### Messages (chapter 11) -/

/-- R248, R253, R254, R256 to R260, R283: what the core does with the item at the head of its arrivals: a request for a
generation still to come is held, one to an open window of its own slice, or to an open inbox with room, is granted, and one that finds the request queue full waits (R238); a GRANT fills the entry that waits
for it; a NACK frees it and counts, and TOO_LONG faults with MSG_TOO_LONG (0x6006); an answer that nothing waits for is counted at its port (R284); a MESSAGE lands in its reservation; a WRITE lands in its window; a
WITHDRAW removes its request. The model’s own readings in it: log entries 23 and 80. -/
def Obligations.ArrivingItems : Prop :=
  ∀ (s : State) (c : PCore) (it : Item) (rest : List Item), s.wrap.hold = false → s.runs = true → (s.core c).meshIn = it :: rest →
    let h := it.hdr
    let k := s.core c
    (h.kind = kRequest → 64 ≤ k.reqq.length →
      ∃ t, exec (.request c) s = .next t ∧ (t.core c).meshIn = k.meshIn ∧ (t.core c).reqq = k.reqq ∧ t.ctxs = s.ctxs) ∧
    (∀ i, h.kind = kRequest → k.reqq.length < 64 → s.checkHdr h = .hold i →
      ∃ t, exec (.request c) s = .next t ∧ (t.core c).reqq = k.reqq ++ [h] ∧ (t.core c).meshIn = rest) ∧
    (∀ i, h.kind = kRequest → k.reqq.length < 64 → s.checkHdr h = .ok i → h.window = true → h.target < 16 → (k.win h.target).grants i h = true →
      ∃ t, exec (.request c) s = .next t ∧ ((t.core c).win h.target).granted = (k.win h.target).granted + 1 ∧
        (t.core c).given = k.given ++ [(h, (if (k.win h.target).combining then 0 else h.offset), (k.win h.target).gen)]) ∧
    (∀ i b, h.kind = kRequest → k.reqq.length < 64 → s.checkHdr h = .ok i → h.window = false → k.inbox i h.target = some b → b.isOpen = true →
      b.waitq = [] → h.units + 1 ≤ b.cap - b.tail → b.occ + (h.units + 1) ≤ b.cap →
      ∃ t b', exec (.request c) s = .next t ∧ (t.core c).given = k.given ++ [(h, b.tail, b.gen)] ∧ (t.core c).inbox i h.target = some b' ∧
        b'.waitq = [] ∧ b'.occ = b.occ + (h.units + 1) ∧ b'.tail = (b.tail + (h.units + 1)) % b.cap) ∧
    (∀ e, h.kind = kGrant → s.awaited c h = some e → h.gid < 32 →
      ∃ t, exec (.grant c) s = .next t ∧ (t.core c).meshIn = rest ∧ (t.core c).grants.at? h.gid = some (some { e with
        granted := true, hdr := { e.hdr with ctxGen := h.ctxGen, dgen := h.dgen, offset := h.offset } })) ∧
    (∀ e, h.kind = kNack → s.awaited c h = some e → h.gid < 32 → h.reason ≠ 4 →
      ∃ t, exec (.nack c) s = .next t ∧ (t.core c).meshIn = rest ∧ (t.core c).grants.at? h.gid = some none ∧
        (t.ctx e.slot).nacks = (s.ctx e.slot).nacks + 1) ∧
    (∀ e, h.kind = kNack → s.awaited c h = some e → h.reason = 4 → (s.ctx e.slot).state = .loaded →
      ∃ t, exec (.nack c) s = .next t ∧ (t.ctx e.slot).state = .torn ∧ (t.ctx e.slot).outcome = some (3, 0x6006)) ∧
    (∀ r ∈ [(kGrant, Instr.grant c), (kNack, Instr.nack c)], h.kind = r.1 → s.awaited c h = none →
      let n := 0x1907 + 64 * (it.port.map (·.val)).getD 0
      ∃ t, exec r.2 s = .next t ∧ (t.core c).meshIn = rest ∧ t.globalCounter n = s.globalCounter n + 1 ∧ (t.core c).grants = k.grants ∧ t.ctxs = s.ctxs) ∧
    (∀ i b, h.kind = kMessage → it.cut = false → s.checkHdr h = .ok i → h.ctxGen = (s.ctx i).ctxGen → h.window = false →
      k.inbox i h.target = some b → h.dgen = b.gen → it.data.length = 64 * h.units → k.memoriesWf = true →
      ∃ t, exec (.message c) s = .next t ∧ t.hostMem = s.hostMem ∧ t.devMem = s.devMem ∧
        (∀ n < 64 * h.units, (t.core c).act.read (b.base + 64 * (h.offset + 1) + n) = it.data.getD n 0) ∧
        ∀ a, a < b.base + 64 * h.offset ∨ b.base + 64 * (h.offset + 1 + h.units) ≤ a → (t.core c).act.read a = k.act.read a) ∧
    (∀ i, h.kind = kWrite → s.checkHdr h = .ok i → h.ctxGen = (s.ctx i).ctxGen → h.window = true →
      h.dgen = (k.win h.target).gen → (h.offset + h.units) * 64 ≤ (k.win h.target).len →
      ∃ t, exec (.windowWrite c) s = .next t ∧ (t.core c).act = k.act.writeBytes ((k.win h.target).lo + 64 * h.offset) it.data ∧
        t.hostMem = s.hostMem ∧ t.devMem = s.devMem) ∧
    (h.kind = kWithdraw → (∃ r ∈ k.reqq, r.sameReq h = true) →
      ∃ t, exec (.withdraw c) s = .next t ∧ (t.core c).reqq = (k.reqq.filter fun r => !r.sameReq h) ∧ (t.core c).meshIn = rest)


/-! ### Descriptors (chapters 5, 13 and 16) -/

/-- R296, R299: what is not at the head of a ring is not taken; a descriptor with a reserved field completes with
DESC_RESERVED, one outside the rights of its ring with DESC_PRIVILEGE, one that names no slot with DESC_ARG, and one whose slot is in another state with CTX_STATE,
and has no other effect. The model’s own readings in it: log entry 35. -/
def Obligations.DescriptorsRejected : Prop :=
  ∀ (s s₁ : State) (r : Ring) (d : List Byte) (c : CompRef), ∀ e ∈ descTable, s.wrap.hold = false →
    let step : W64 := if e.1 = 0x10 then (match dSlot d with | some i => (s.ctx i).step | none => 0) else 0
    let vbuf : W32 := if e.1 = 0x10 then (match dSlot d with | some i => (s.ctx i).vbuf | none => 0) else 0
    (s.takeDesc r = some (d, c, s₁) →
      (rowOf d = none → exec (e.2.1 r) s = .next (s.act fun _ => s₁.finish c 0x8101)) ∧
      (rowOf d = some e.1 → descReserved d = true → exec (e.2.1 r) s = .next (s.act fun _ => s₁.finish c 0x8101 step vbuf)) ∧
      (rowOf d = some e.1 → descReserved d = false → s₁.unprivileged r d = true →
        exec (e.2.1 r) s = .next (s.act fun _ => s₁.finish c 0x8301 step vbuf)) ∧
      (s.takes r e.1 d c s₁ → dSlot d = none → exec (e.2.1 r) s = .next (s.act fun _ => s₁.finish c 0x8102 step vbuf)) ∧
      (∀ l, s.takes r e.1 d c s₁ → e.2.2 = some l →
        (∀ i, dSlot d = some i → (s₁.ctx i).state ∉ l → exec (e.2.1 r) s = .next (s.act fun _ => s₁.finish c 0x3110 step vbuf)))) ∧
    (e.1 ≠ 0x50 → e.1 ≠ 0x51 → s.takeDesc r = none → exec (e.2.1 r) s = .next s) ∧
    (e.1 ≠ 0x50 → e.1 ≠ 0x51 → (s.ringOf r).head = (s.ringOf r).tail → exec (e.2.1 r) s = .next s)

/-- R296, R298, Table 13.5: the completion entry of a descriptor none of whose writes is outstanding is written at its reserved
index of its ring's completion ring, or waits while a lost supply parks the host port (R377): USER, SQ index, CODE, SLOT, TYPE and phase, STEP and BEL.COUNT as the table lays them
out; the ring of a slot then moves past the descriptor. The model’s own readings in it: log entries 3, 35, 76 and 83. -/
def Obligations.CompletionsWritten : Prop :=
  ∀ (s : State) (c : CompRef) (code : W16) (step : W64) (vbuf : W32), s.writing (fun o => o == .desc c) = false →
    let t := s.finish c code step vbuf
    let n := c.size
    let at' := c.base + 32 * (c.idx % n)
    (s.pwr.lost = false → s.hostMem.wf = true → ∀ k < 32, t.hostMem.read (at' + k) = (compBytes c (phaseOf c.idx n) code step vbuf s.bel.count).getD k 0) ∧
    (s.pwr.lost = true → t.hostMem = s.hostMem) ∧
    (s.hostMem.wf = true → ∀ a, a < at' ∨ at' + 32 ≤ a → t.hostMem.read a = s.hostMem.read a) ∧
    t.devMem = s.devMem ∧ t.cores = s.cores ∧
    (c.ring = .admin → t.ctxs = s.ctxs) ∧
    (∀ i, c.ring = .slot i → (t.ctx i).ring = (if (s.ctx i).ringSetups = c.setup then (s.ctx i).ring.pass c.sqIndex else (s.ctx i).ring) ∧
      ∀ j, j ≠ i → t.ctx j = s.ctx j)

/-- R95, R96, Table 5.2: OPEN of a FREE slot sets its context up, with CTX_GEN advanced, step and instance generation 0 and its
counters clear; UPDATE is kept for the next Bell without a slice; RESUME of a TORN slot whose room is there makes it LOADED, or OPEN without
an image, with CTX_GEN advanced; CLOSE frees the slot, at once where no completion of
a SUBMIT_SLICE or LOAD_IMAGE waits for an acknowledgement, and after it otherwise. Other contexts stay as they are where no completion waits.
The model’s own readings in it: log entries 27, 35, 82 and 84. -/
def Obligations.ContextsOpenAndClose : Prop :=
  ∀ (s s₁ : State) (d : List Byte) (c : CompRef) (i : Slot), dSlot d = some i → c.ring = .admin →
    let x := s.ctx i
    (s.takes .admin 0x80 d c s₁ → x.state = .free → (le64 d 32).toNat % 64 = 0 → le64 d 40 ≠ 0 → (le64 d 40).toNat % 64 = 0 →
      s₁.policyCheck d = none →
      ∃ t, exec (.openContext .admin) s = .next t ∧ (∀ j, j ≠ i → t.ctx j = s.ctx j) ∧
        (t.ctx i).state = .opened ∧ (t.ctx i).id = le32 d 20 ∧ (t.ctx i).ctxGen = x.ctxGen + 1 ∧ (t.ctx i).igen = 0 ∧ (t.ctx i).step = 0 ∧
        (t.ctx i).policy = Policy.ofWord (le64 d 24) ∧ (t.ctx i).setup = RingSetup.ofBytes (s.paramBlock d) ∧
        (t.ctx i).doorbell = (le64 d 32).toNat ∧ (t.ctx i).backing = (le64 d 48).toNat ∧ (t.ctx i).counters = Tab.fill 32 0 ∧
        (t.ctx i).ring = {} ∧ (t.ctx i).seedReg = x.seedReg ∧ t.cores = s.cores) ∧
    (s.takes .admin 0x81 d c s₁ → (x.state = .opened ∨ x.state = .loaded ∨ x.state = .torn) → (le64 d 40).toNat % 64 = 0 →
      s₁.policyCheck d = none → le32 d 20 = x.id → (Policy.ofWord (le64 d 24)).pitch = x.policy.pitch →
      ∃ t, exec (.updatePolicy .admin) s = .next t ∧ (∀ j, j ≠ i → t.ctx j = s.ctx j) ∧ t.cores = s.cores ∧
        t.ctx i = { x with
          policyNext := some (Policy.ofWord (le64 d 24)), backingNext := some (le64 d 48).toNat
          setupNext := if le64 d 40 ≠ 0 then some (RingSetup.ofBytes (s.paramBlock d)) else x.setupNext
          groupNext := if le64 d 40 ≠ 0 then some (GroupBlk.ofBytes (s.paramBlock d)) else x.groupNext }) ∧
    (s.takes .admin 0x82 d c s₁ → x.state = .torn → le32 d 20 = x.id → x.noResume = false →
      (x.image = none → ∃ t, exec (.setPolicyResume .admin) s = .next t ∧
        t.ctx i = { x with state := .opened, ctxGen := x.ctxGen + 1, reload := false }) ∧
      (∀ im base, x.image = some im → s₁.roomCheck i im = none → s₁.kernelPlace i im.kernelLen = some base →
        ∃ t, exec (.setPolicyResume .admin) s = .next t ∧ (t.ctx i).state = .loaded ∧ (t.ctx i).ctxGen = x.ctxGen + 1 ∧
          (t.ctx i).reload = false ∧ (t.ctx i).kernBase = base ∧
          (x.reload = false → t.ctx i = { x with state := .loaded, ctxGen := x.ctxGen + 1, reload := false, kernBase := base })) ∧
      (∀ im, x.image = some im → (s₁.roomCheck i im ≠ none ∨ s₁.kernelPlace i im.kernelLen = none) →
        exec (.setPolicyResume .admin) s = .next (s.act fun _ => s₁.finish c 0x3110))) ∧
    (s.takes .admin 0x83 d c s₁ → (x.state = .opened ∨ x.state = .loaded ∨ x.state = .torn) → le32 d 20 = x.id →
      (∀ h ∈ (s₁.closeKill i).ev.held, h.waitFor = .writes → h.comp.slot = i.val → h.comp.type = 1 ∨ h.comp.type = 2 →
        ((s₁.closeKill i).writing fun o => o == .desc h.comp) = true →
        ∃ t, exec (.closeContext .admin) s = .next t ∧ (t.ctx i).state = .torn ∧ (t.ctx i).slice = none ∧ (t.ctx i).desc = none ∧
          (t.ctx i).noResume = true ∧ ∃ y ∈ t.ev.held, y.comp = c ∧ y.waitFor = .close i) ∧
      ((s₁.closeKill i).compsOwed i = false →
      ∃ t, exec (.closeContext .admin) s = .next t ∧ (t.ctx i).state = .free ∧ (t.ctx i).slice = none ∧ (t.ctx i).desc = none ∧
        (t.ctx i).image = none ∧ (t.ctx i).bindings = [] ∧ (t.ctx i).ctxGen = x.ctxGen ∧ (t.ctx i).seedReg = 0))

/-- R300: SUBMIT_SLICE reads its parameter block; where each entry edge has its token and each TENSOR_ID its binding, the
slice waits for admission and the descriptor stays at the head of its ring; else it completes with ENTRY_MISMATCH or
BIND_MISMATCH and its STEP. The model’s own readings in it: log entry 3. -/
def Obligations.SliceSubmission : Prop :=
  ∀ (s s₁ : State) (i : Slot) (d : List Byte) (c : CompRef) (im : Image), s.takes (.slot i) 0x10 d c s₁ → dSlot d = some i →
    (s.ctx i).state = .loaded → (s.ctx i).image = some im → (le64 d 16).toNat % 4096 = 0 → (le64 d 24).toNat % 64 = 0 →
    let n := (le16 d 32).toNat
    let k := (le16 d 34).toNat
    let bs := s.hostRead (le64 d 24).toNat (32 * n + 16 * k)
    let es := (entryRecords bs n).map entryOfBytes
    let bd := (bindRecords bs n k).map bindOfBytes
    let s₂ := s₁.readReq true (le64 d 24).toNat (32 * n + 16 * k) (.ctx i)
    (entryRecords bs n).any entryReserved = false → (bindRecords bs n k).any bindReserved = false → (∀ b ∈ bd, b.2 % 64 = 0) →
    (im.entriesOk es = false → exec (.submitSlice (.slot i)) s = .next (s.act fun _ => s₂.finish c 0x8103 (s.ctx i).step (s.ctx i).vbuf)) ∧
    (im.entriesOk es = true → (s.ctx i).boundOk im bd = false →
      exec (.submitSlice (.slot i)) s = .next (s.act fun _ => s₂.finish c 0x8104 (s.ctx i).step (s.ctx i).vbuf)) ∧
    (im.entriesOk es = true → (s.ctx i).boundOk im bd = true → s.bel.running = false →
      ∃ t sub, exec (.submitSlice (.slot i)) s = .next t ∧ (t.ctx i).desc = some sub ∧ sub.comp = c ∧ sub.entries = es ∧ sub.binds = bd ∧
        sub.spill = (le64 d 16).toNat ∧ sub.rerun = false ∧ sub.overruns = 0 ∧ (t.ctx i).ring.head = (s.ctx i).ring.head ∧
        (t.ctx i).slice = (s.ctx i).slice ∧ t.hostMem = s.hostMem ∧ t.cores = s.cores ∧ ∀ j, j ≠ i → t.ctx j = s.ctx j)

/-- R64, R65: LOAD_IMAGE of an image that passes its checks waits for the Bell, and completes with the code of the first that
fails; the install at the Bell puts the image in force, its handles into the tables of its cores, and the slot in LOADED.
The model’s own readings in it: log entries 27 and 28. -/
def Obligations.ImagesLoad : Prop :=
  ∀ (s : State) (i : Slot), (
    (∀ s₁ r d c, s.takes r 0x20 d c s₁ → dSlot d = some i → ((s.ctx i).state = .opened ∨ (s.ctx i).state = .loaded) →
      (le64 d 16).toNat % 16 = 0 →
      let addr := (le64 d 16).toNat
      let s₂ := s₁.countImage i addr (ImageFile.ofHeader (s.devRead addr 128)).len
      (∀ code, s₂.loadCheck i addr = .error code → exec (.loadImage r) s = .next (s.act fun _ => s₂.finish c code)) ∧
      (∀ im, s₂.loadCheck i addr = .ok im → ∃ t, exec (.loadImage r) s = .next t ∧ (t.ctx i).pending = some (im, c) ∧
        (t.ctx i).image = (s.ctx i).image ∧ (t.ctx i).state = (s.ctx i).state ∧ t.cores = s.cores)) ∧
    (∀ im c rest base, s.wrap.hold = false → s.runs = true → s.bel.installs = i :: rest → (s.ctx i).pending = some (im, c) →
      s.pendingBanksOn i = true →
      let s₁ := ({ s with bel := { s.bel with installs := rest } } : State).modCtx i fun x => { x with pending := none, installWait := false }
      s₁.installCheck i im = none → s₁.kernelPlace i im.kernelLen = some base →
      ∃ t, exec (.imageInstall i) s = .next t ∧ (t.ctx i).image = some im ∧ (t.ctx i).pending = none ∧ (t.ctx i).kernBase = base ∧
        (t.ctx i).state = (if (s.ctx i).state = .opened then .loaded else (s.ctx i).state) ∧ (t.ctx i).statCom = [] ∧
        (t.ctx i).fmt = (List.range im.layers).map (fun l => (l, {})) ∧
        (∀ k : PCore, ((t.core k).handles.filter fun e => e.slot == i) =
          if k ∈ (s.pitchCores (s.ctx i).policy.pitch).take im.cores then
            im.handles.map fun h => { slot := i, h := h.h, mem := h.mem, cls := h.cls, base := h.off, size := h.size } else []) ∧
        ∀ k : PCore, ((t.core k).handles.filter fun e => e.slot != i) = ((s.core k).handles.filter fun e => e.slot != i)) ∧
    (∀ im c rest, s.wrap.hold = false → s.runs = true → s.bel.installs = i :: rest → (s.ctx i).pending = some (im, c) →
      s.pendingBanksOn i = false → ({ s with bel := { s.bel with installs := rest } } : State).installCheck i im = none →
      ∃ t, exec (.imageInstall i) s = .next t ∧ t.ctx i = { s.ctx i with installWait := true } ∧ t.bel.installs = rest ∧ t.cores = s.cores))

/-- R302: outside a slice BIND gives a TENSOR_ID its addresses where they find room, UNBIND takes them away, and COPY fills the scratch tensor
of each core that it names from its source, which is kept for a swap-in where the tensor is constant; a COPY with no tensor to fill or of a
core that the image has not is rejected (0x8106). A COPY, an UNBIND, or a BIND of a bound tensor during a slice waits for its end. The
model’s own readings in it: log entries 35 and 41. -/
def Obligations.TensorsBound : Prop :=
  ∀ (s s₁ : State) (r : Ring) (d : List Byte) (c : CompRef) (i : Slot), dSlot d = some i →
    ((s.ctx i).state = .opened ∨ (s.ctx i).state = .loaded) →
    let x := s.ctx i
    let tid := (le32 d 16).toNat
    let first := dByte d 40
    let count := dByte d 41
    let others (t : State) : Prop := t.cores = s.cores ∧ t.devMem = s.devMem ∧ ∀ j, j ≠ i → t.ctx j = s.ctx j
    (s.takes r 0x30 d c s₁ → (x.slice = none ∨ ∀ b ∈ x.bindings, b.tid ≠ tid) →
      let k := x.bindKind tid (le64 d 32).toNat (dByte d 21 == 1)
      let b : Binding :=
        { tid := tid, addr0 := (le64 d 24).toNat, addr1 := (le64 d 32).toNat, len := (le64 d 48).toNat, host := k.2, versioned := k.1 }
      let old := x.bindings.find? fun b => b.tid == tid
      let mine := (old.map (·.granules)).getD 0
      ((old ≠ none ∨ x.bindings.length < 256) → b.granules ≤ s.granulesFree + mine →
        ∃ t, exec (.bindTensor r) s = .next t ∧ others t ∧ { t.ctx i with ring := x.ring } =
          { x with bindings := (x.bindings.filter fun b => b.tid != tid) ++ [b], ver := x.ver.filter fun v => v.1 != .offBlock tid }) ∧
      (((old = none ∧ 256 ≤ x.bindings.length) ∨ s.granulesFree + mine < b.granules) →
        exec (.bindTensor r) s = .next (s.act fun _ => s₁.finish c 0x8105))) ∧
    (s.takes r 0x32 d c s₁ → x.slice = none →
      ∃ t, exec (.unbindTensor r) s = .next t ∧ others t ∧ { t.ctx i with ring := x.ring } =
        { x with bindings := x.bindings.filter fun b => b.tid != tid, ver := x.ver.filter fun v => v.1 != .offBlock tid }) ∧
    (s.takes r 0x31 d c s₁ →
      ((x.image = none ∨ ∃ im, x.image = some im ∧ (im.copyTargets tid = [] ∨ im.cores < first + count)) →
        exec (.copyTensor r) s = .next (s.act fun _ => s₁.finish c 0x8106)) ∧
      ∀ im h, x.image = some im → im.copyTargets tid = [h] → first + count ≤ im.cores →
        (x.slice ≠ none → exec (.copyTensor r) s = .next (s.act fun _ => s₁.hold { comp := c, waitFor := .tensor i d })) ∧
        (x.slice = none → ∃ t, exec (.copyTensor r) s = .next t ∧ t.devMem = s.devMem ∧ (t.ctx i).bindings = x.bindings ∧
          (∀ k : PCore, (∀ n, first ≤ n → n < first + count → s.imageCore x.policy.pitch n ≠ some k) → t.core k = s.core k) ∧
          (h.cls = 2 → { tid := tid, host := dByte d 21 == 1, addr0 := (le64 d 24).toNat, stride := (le64 d 32).toNat, first := first, count := count } ∈
            (t.ctx i).sources) ∧
          ∀ n k e, first ≤ n → n < first + count → s.imageCore x.policy.pitch n = some k → (s.core k).handle i h.h = some e →
            e.mem < 2 → (e.size = h.size ∨ e.cls ≠ 1) → (s.core k).memoriesWf = true →
            let src := if dByte d 21 = 1 then s.hostMem else s.devMem
            let from' := ((le64 d 24).toNat + n * (le64 d 32).toNat) % 2 ^ 64
            let dest (p : Nat) : Nat := x.copyBase e (x.readSecond k e p false) + p
            (∀ p < h.size * 256, ((t.core k).mem e.mem).read (dest p) = src.read (from' + p)) ∧
            ∀ a, (∀ p < h.size * 256, a ≠ dest p) → ((t.core k).mem e.mem).read a = ((s.core k).mem e.mem).read a)) ∧
    (x.slice ≠ none →
      (s.takes r 0x32 d c s₁ → exec (.unbindTensor r) s = .next (s.act fun _ => s₁.hold { comp := c, waitFor := .tensor i d })) ∧
      (s.takes r 0x30 d c s₁ → (∃ b ∈ x.bindings, b.tid = tid) →
        exec (.bindTensor r) s = .next (s.act fun _ => s₁.hold { comp := c, waitFor := .tensor i d })))

/-- R102, R303, R304, R105, R45: FENCE of a tenant ring completes at once, or with QUIET at the end of the slice in service; on
the admin ring it waits for every earlier descriptor. KILL ends the slice in service and completes its SUBMIT_SLICE, also from
its own ring at SQ_HEAD + 1 (R296), and without a slice changes nothing of the context; COMMIT
and ABORT end one that is held in doubt. EVICT kills the slice and waits for the Bell. The model’s own readings in it: log entries 34 and 36. -/
def Obligations.FencesKillsAndEvictions : Prop :=
  ∀ (s s₁ : State) (d : List Byte) (c : CompRef) (i : Slot), dSlot d = some i → (s.ctx i).state = .loaded →
    let x := s.ctx i
    (s.takes (.slot i) 0x40 d c s₁ →
      ((dByte d 16 ≠ 1 ∨ x.slice = none) → exec (.fence (.slot i)) s = .next (s.act fun _ => s₁.finish c 0)) ∧
      (dByte d 16 = 1 → x.slice ≠ none → exec (.fence (.slot i)) s = .next (s.act fun _ => s₁.hold { comp := c, waitFor := .quiet i }))) ∧
    (s.takes .admin 0x40 d c s₁ → s₁.fenceWaits = false → (dByte d 16 ≠ 1 ∨ x.slice = none) →
      exec (.fence .admin) s = .next (s.act fun _ => ({ s₁ with hst := { s₁.hst with fence := none } } : State).finish c 0)) ∧
    (s.takes .admin 0x40 d c s₁ → (s₁.fenceWaits = true ∨ (dByte d 16 = 1 ∧ x.slice ≠ none)) →
      ∃ t, exec (.fence .admin) s = .next t ∧ t.hst.fence = some (c, if dByte d 16 = 1 then some i else none) ∧
        t.hostMem = s.hostMem ∧ t.ctxs = s.ctxs) ∧
    (s.takes .admin 0x50 d c s₁ → x.slice ≠ none → x.held = none →
      ∃ t, exec (.kill .admin) s = .next t ∧ (t.ctx i).slice = none ∧ (t.ctx i).desc = none ∧ (t.ctx i).outcome = some (2, 0x3117) ∧
        (t.ctx i).barred = true ∧ (t.ctx i).state = .loaded ∧ (t.ctx i).step = x.step ∧ (t.ctx i).image = x.image ∧ (t.ctx i).statCom = x.statCom) ∧
    (s.takes .admin 0x50 d c s₁ → x.slice = none → ∃ t, exec (.kill .admin) s = .next t ∧ (t.ctx i).slice = none ∧
      (t.ctx i).desc = x.desc ∧ (t.ctx i).outcome = x.outcome ∧ (t.ctx i).barred = x.barred ∧ (t.ctx i).state = .loaded) ∧
    (let q := s.ringOf (.slot i)
      let next := s.descAt (.slot i) ((q.head + 1) % 2 ^ 32)
      s.wrap.hold = false → s.runs = true → s.ringReads (.slot i) = true → s.cqRoom (.slot i) = true → x.descAtHead = true → x.slice ≠ none → x.held = none →
      2 ≤ span 32 q.tail q.head → q.ahead = false → rowOf next = some 0x50 → descReserved next = false → dSlot next = some i →
      s.unprivileged (.slot i) next = false →
      ∃ t, exec (.kill (.slot i)) s = .next t ∧ (t.ctx i).slice = none ∧ (t.ctx i).desc = none ∧ (t.ctx i).outcome = some (2, 0x3117) ∧
        (t.ctx i).barred = true ∧ (t.ctx i).state = .loaded ∧ (t.ctx i).step = x.step) ∧
    (s.takes .admin 0x51 d c s₁ → x.inDoubt = true → x.slice ≠ none → x.held ≠ none → le64 d 24 = x.step →
      ∃ t, exec (.killResolution .admin) s = .next t ∧ (t.ctx i).slice = none ∧ (t.ctx i).held = none ∧ (t.ctx i).inDoubt = false ∧
        (dByte d 16 = 1 → (t.ctx i).step = x.step + 1 ∧ (t.ctx i).statCom = x.statRun) ∧
        (dByte d 16 = 2 → (t.ctx i).step = x.step ∧ (t.ctx i).statCom = x.statCom)) ∧
    (s.takes .admin 0x60 d c s₁ →
      ((s₁.canEvict i && (s₁.ctx i).evictOpen) = false → exec (.evict .admin) s = .next (s.act fun _ => s₁.finish c 0x3110)) ∧
      ((s₁.canEvict i && (s₁.ctx i).evictOpen) = true → ∃ t, exec (.evict .admin) s = .next t ∧ (t.ctx i).evict = some { byMarket := false, comp := some c } ∧
        (t.ctx i).slice = none ∧ (t.ctx i).barred = true ∧ (t.ctx i).state = .loaded ∧ (t.ctx i).step = x.step))

/-- R104, R107, R95: SWAP_IN of a record that is not VALID and SWAPPED, or whose context is resident, completes with CTX_STATE; of one that
passes its checks, by a descriptor or by the Market's plan, it takes the slot to ARRIVING with what the record holds; one that fails
them frees the slot and is HELD. Once the banks are on, the constant tensors and the write-back buffer come back and the slot is
LOADED, CTX_GEN advanced, SWAPPED cleared in the record, and admission waits for the next Bell. The model’s own readings in it:
log entries 33, 42 and 75. -/
def Obligations.SwapIns : Prop :=
  ∀ (s : State) (i : Slot),
    let arrives (s₂ : State) (n : Nat) (im : Image) (t : State) : Prop :=
      let bs := s₂.swapRecord n
      (t.ctx i).state = .arriving ∧ (t.ctx i).image = some im ∧
        (t.ctx i).id = le32 bs 0 ∧ (t.ctx i).ctxGen = (le32 bs 4).extractLsb' 0 12 ∧ (t.ctx i).step = le64 bs 8 ∧
        (t.ctx i).igen = (le32 bs 16).extractLsb' 0 12 ∧ (t.ctx i).policy = Policy.ofWord (le64 bs 24) ∧
        (t.ctx i).quota = fld (le32 bs 96) 16 0 ∧ (t.ctx i).seedReg = le64 (s.devRead (s.seedAddr n) 16) 0 ∧
        t.hostMem = s.hostMem ∧ t.devMem = s.devMem
    (∀ s₁ d c, s.takes .admin 0x84 d c s₁ → dSlot d = some i → (s.ctx i).state = .free → (le16 d 56).toNat < s.mkt.swapCount →
      policyReserved (le64 d 24) = false →
      let n := (le16 d 56).toNat
      let bs := s.swapRecord n
      (s₁.recordTaken n = true ∨ swapReady bs = false → exec (.swapIn (.desc .admin)) s = .next (s.act fun _ => s₁.finish c 0x3110)) ∧
      (s₁.recordTaken n = false → swapReady bs = true →
        let s₂ := (s₁.readReq false (s.swapAddr n) 128 .supervisor).modCtx i fun x => x.restore bs { record := n, byMarket := false, comp := some c }
        (∀ im base, s₂.swapCheck i bs n = .ok im → s₂.kernelPlace i im.kernelLen = some base →
          ∃ t, exec (.swapIn (.desc .admin)) s = .next t ∧ arrives s n im t) ∧
        (∀ code, s₂.swapCheck i bs n = .error code → s.pwr.lost = false → s.devMem.wf = true →
          ∃ t, exec (.swapIn (.desc .admin)) s = .next t ∧ (t.ctx i).state = .free ∧
            le32 (t.swapRecord n) 4 = setBit (le32 bs 4) 29 true ∧ ∃ h ∈ t.ev.held, h.comp = c ∧ h.code = code))) ∧
    (∀ n, s.wrap.hold = false → s.runs = true → (s.mkt.swapNow.find? fun p => p.2 == i) = some (n, i) → (s.ctx i).state = .free →
      let s₁ : State := { s with mkt := { s.mkt with swapNow := s.mkt.swapNow.erase (n, i) } }
      let bs := s.swapRecord n
      (s₁.recordTaken n = true ∨ swapReady bs = false → exec (.swapIn (.market i)) s = .next s₁) ∧
      (s₁.recordTaken n = false → swapReady bs = true →
        let s₂ := (s₁.readReq false (s.swapAddr n) 128 .supervisor).modCtx i fun x => x.restore bs { record := n, byMarket := true, comp := none }
        ∀ im base, s₂.swapCheck i bs n = .ok im → s₂.kernelPlace i im.kernelLen = some base →
          ∃ t, exec (.swapIn (.market i)) s = .next t ∧ arrives s n im t)) ∧
    (∀ w im, s.wrap.hold = false → s.runs = true → (s.ctx i).state = .arriving → (s.ctx i).swapIn = some w → (s.ctx i).image = some im →
      (s.banksOn i = false → exec (.swapIn (.restored i)) s = .next s) ∧
      (s.banksOn i = true →
        let s₁ := (s.ctx i).sources.foldl (fun s y => s.copyFrom i y) s
        let back := if (s.ctx i).needsBack then s₁.restoreBack i im else some s₁
        (∀ s₂, back = some s₂ → s.pwr.lost = false → s.devMem.wf = true →
          ∃ t, exec (.swapIn (.restored i)) s = .next t ∧ (t.ctx i).state = .loaded ∧ (t.ctx i).ctxGen = (s.ctx i).ctxGen + 1 ∧
            (t.ctx i).barred = true ∧ (t.ctx i).swapIn = none ∧ (t.ctx i).step = (s.ctx i).step ∧ (t.ctx i).image = some im ∧
            t.cores = s₂.cores ∧ le32 (t.swapRecord w.record) 4 = setBit (le32 (s.swapRecord w.record) 4) 30 false ∧
            ∀ k, w.comp = some k → ∃ h ∈ t.ev.held, h.comp = k ∧ h.code = 0) ∧
        (back = none → ∃ t, exec (.swapIn (.restored i)) s = .next t ∧ (t.ctx i).state = .free)))

/-- R305, R364: READ_COUNTERS writes a snapshot of consecutive counters to host memory, each 64 bits in little-endian order,
and nothing else there; its completion waits for the write and carries the low half of the time-stamp.
The model’s own readings in it: log entries 3 and 35. -/
def Obligations.CountersRead : Prop :=
  ∀ (s s₁ : State) (r : Ring) (d : List Byte) (c : CompRef) (i : Slot), s.takes r 0x70 d c s₁ → (le64 d 16).toNat % 64 = 0 →
    1 ≤ (le16 d 26).toNat → (le16 d 26).toNat ≤ 512 → dSlot d = some i →
    let value (k : Nat) : Nat := if dByte d 28 = 1 then s₁.globalCounter ((le16 d 24).toNat + k) else s₁.ctxCounter i ((le16 d 24).toNat + k)
    ∃ t, exec (.readCounters r) s = .next t ∧
      t.hostMem = s.hostMem.writeBytes (le64 d 16).toNat (((List.range (le16 d 26).toNat).map value).flatMap (leBytes 8)) ∧
      t.devMem = s.devMem ∧ t.cores = s.cores ∧
      (∃ h, t.ev.held = s.ev.held ++ [h] ∧ h.comp = c ∧ h.code = 0 ∧ h.vbuf = BitVec.ofNat 32 s.clk.time ∧ h.waitFor = .writes)

/-- R392 to R394: LOAD_IMAGE of a fabric image on a pitch with no mask, with contexts or with an install in progress completes with
0x3112; one that passes its scan leaves the routes as they are. The install pass puts a frame's entries at its core and no
valid entry at the other cores of the pitch; the check ends CONFIGURED, or UNCONFIGURED with no route.
The model’s own readings in it: log entry 69. -/
def Obligations.FabricImagesInstall : Prop :=
  ∀ (s : State) (p : Pitch), (
    (∀ s₁ d c, s.takes .admin 0x21 d c s₁ → dSlot d ≠ none → (le64 d 16).toNat % 16 = 0 → p.val = dByte d 25 →
      let addr := (le64 d 16).toNat
      let bs := (s.readFabric addr).1
      (((s.pit p).mask = 0 ∨ (s.pit p).install ≠ none ∨ s.residents p ≠ []) →
        exec (.loadFabricImage .admin) s = .next (s.act fun _ => s₁.finish c 0x3112)) ∧
      ((s.pit p).mask ≠ 0 → (s.pit p).install = none → s.residents p = [] → fabScan bs (s.pit p).mask = none →
        ∃ t, exec (.loadFabricImage .admin) s = .next t ∧ t.streams = s.streams ∧ (t.pit p).state = (s.pit p).state ∧
          (t.pit p).install = some { comp := c, addr := addr, frames := fabFrames bs, phase := 1 })) ∧
    (∀ x, s.wrap.hold = false → s.runs = true → (s.pit p).install = some x →
      (x.phase = 1 → ∃ t y, exec (.fabricInstallPass p) s = .next t ∧ (t.pit p).state = 3 ∧ (t.pit p).install = some y ∧ y.phase = 2 ∧
        let fs := (fabAll (s.readFabric x.addr).1).take 64
        (∀ l, (s.pit p).mask.getLsbD l = false → t.streams.find l = s.streams.find l) ∧
        (∀ l, (s.pit p).mask.getLsbD l = true → (∀ f ∈ fs, f.lcore ≠ l) → t.streams.find l = none) ∧
        ((fs.map (·.lcore)).Nodup → ∀ f ∈ fs, (s.pit p).mask.getLsbD f.lcore = true → t.streams.find f.lcore = some f.entries)) ∧
      (x.phase = 2 → x.bad = false → ∃ t, exec (.fabricInstallCheck p) s = .next t ∧ (t.pit p).state = 2 ∧ (t.pit p).install = none ∧
        t.streams = s.streams) ∧
      (x.phase = 2 → x.bad = true → ∃ t, exec (.fabricInstallCheck p) s = .next t ∧ (t.pit p).state = 1 ∧ (t.pit p).install = none ∧
        ∀ l, (s.pit p).mask.getLsbD l = true → t.streams.find l = none)))

/-- R350, R352, R357, R358: BRK_ARM arms a context's breakpoint set and BRK_DISARM removes it, no core changed; BELL_HOLD from a tenant's ring
is DESC_ARG, and from the admin ring of an unlinked debug personality it holds the Bell timer for a core that is halted (R353); RESUME lets the
named core that is halted go on, or with ALL every halted core of the context, with STEP for one instruction; READ of the registers of a halted core
writes them to host memory, and is CTX_STATE of a core that runs. The model’s own readings in it: log entries 53 and 83. -/
def Obligations.BreakpointsAndReads : Prop :=
  ∀ (s s₁ : State) (r : Ring) (d : List Byte) (c : CompRef) (i : Slot), dSlot d = some i → (s.ctx i).state = .loaded →
    s₁.debugCore i d = true →
    (s.takes r 0x91 d c s₁ →
      (bit (le16 d 17) 0 = false → ∃ t, exec (.brkArm r) s = .next t ∧ t.cores = s.cores ∧ (t.ctx i).brk =
        some { code := le16 d 40, pcs := [le16 d 42, le16 d 44, le16 d 46, le16 d 48], hold := false }) ∧
      (bit (le16 d 17) 0 = true → r = .admin → s.cfg.debug = true → s.bel.master = false → s.bel.linked = false →
        ∃ t, exec (.brkArm r) s = .next t ∧ t.cores = s.cores ∧ (t.ctx i).brk =
          some { code := le16 d 40, pcs := [le16 d 42, le16 d 44, le16 d 46, le16 d 48], hold := true } ∧
          (s.dbg.holdFrom = none → (∃ k, s.haltedIn i k = true) → t.dbg.holdFrom = some s.clk.time)) ∧
      (bit (le16 d 17) 0 = true → r ≠ .admin → exec (.brkArm r) s = .next (s.act fun _ => s₁.finish c 0x8102))) ∧
    (s.takes r 0x92 d c s₁ → ∃ t, exec (.brkDisarm r) s = .next t ∧ t.cores = s.cores ∧ (t.ctx i).brk = none) ∧
    (∀ k, s.takes r 0x93 d c s₁ → bit (le16 d 17) 2 = false → s₁.imageCore (s.ctx i).policy.pitch (le16 d 18).toNat = some k →
      s.haltedIn i k = true → ∃ t, exec (.debugResume r) s = .next t ∧ s.sameMemories { t with hostMem := s.hostMem } ∧ s.sameCoresBut t k ∧
        (t.core k).seq = { (s.core k).seq with brkHalt := false, stepOne := bit (le16 d 17) 1 }) ∧
    (s.takes r 0x93 d c s₁ → bit (le16 d 17) 2 = true → ∃ t, exec (.debugResume r) s = .next t ∧
      s.sameMemories { t with hostMem := s.hostMem } ∧ ∀ k : PCore,
        (k ∈ s.ctxCores i → s.haltedIn i k = true → (t.core k).seq = { (s.core k).seq with brkHalt := false, stepOne := bit (le16 d 17) 1 }) ∧
        (k ∉ s.ctxCores i ∨ s.haltedIn i k = false → t.core k = s.core k)) ∧
    (∀ k, s.takes r 0x94 d c s₁ → (le64 d 24).toNat % 64 = 0 → (le32 d 32).toNat % 64 = 0 → 64 ≤ (le32 d 32).toNat →
      (le32 d 32).toNat ≤ 16777216 → dByte d 50 = 1 → s₁.imageCore (s.ctx i).policy.pitch (le16 d 18).toNat = some k →
      (s.haltedIn i k = false → exec (.debugRead r) s = .next (s.act fun _ => s₁.finish c 0x3110)) ∧
      (s.haltedIn i k = true → ∃ t, exec (.debugRead r) s = .next t ∧ t.cores = s.cores ∧ t.devMem = s.devMem ∧
        t.hostMem = s.hostMem.writeBytes (le64 d 24).toNat ((seqRegs (s.core k).seq).take (le32 d 32).toNat)))

/-- R46, R47, R354, R355, R369: STOP_AT_BELL sets its bit and RESUME_BELL lets the Bells go on from the cut, as a descriptor of the
admin ring and as a write of BEL.CTRL alike; STOP_NOW asks for a stop, which every unit has taken within 64 ns of the request, and
after which the block no longer runs; RESUME_NOW ends it where the chip is in no linked set that still runs, and is CTX_STATE elsewhere; TRIGGER triggers an enabled trace.
The model’s own readings in it: log entry 54. -/
def Obligations.StopsResumesAndTriggers : Prop :=
  ∀ (s s₁ : State) (d : List Byte) (c : CompRef), s.wrap.hold = false →
    (s.bel.en = true → s.errs.fatal = false → (s.bel.master && s.bel.linked) = false →
      (s.takes .admin 0x95 d c s₁ → dSlot d ≠ none → ∃ t, exec (.stopAtBell (.desc .admin)) s = .next t ∧ t.bel = { s.bel with stopAt := true }) ∧
      (s.portOpen → exec (.stopAtBell (.reg (s.belCtrl ||| 8))) s = .next { s.portOk with bel := { s.bel with stopAt := true } }) ∧
      (s.bel.stopped = true → s.bel.master = false → s.bel.linked = false →
        let on : BellSt := { s.bel with stopAt := false, stopped := false, running := true, last := s.clk.time, period := s.bel.periodReg }
        (s.takes .admin 0x96 d c s₁ → dSlot d ≠ none → ∃ t, exec (.resumeBell (.desc .admin)) s = .next t ∧ t.bel = on) ∧
        (s.portOpen → exec (.resumeBell (.reg ((s.belCtrl &&& ~~~8) ||| 1))) s = .next { s.portOk with bel := on }))) ∧
    (s.dbg.stopped = false → s.dbg.stopReq = false →
      (s.takes .admin 0x97 d c s₁ → dSlot d ≠ none → ∃ t, exec (.stopNow (.desc .admin)) s = .next t ∧ t.dbg.stopReq = true ∧ t.dbg.stopAt = s.clk.time) ∧
      (s.portOpen → exec (.stopNow (.reg 1)) s =
        .next { s.portOk with dbg := { s.dbg with stopReq := true, stopAt := s.clk.time } })) ∧
    (s.dbg.stopped = false → s.dbg.stopReq = true → ∃ t, exec .stopNowTaken s = .next t ∧ t.dbg.stopped = true ∧ t.dbg.stopReq = false ∧
      t.runs = false ∧ (t.dbg.stopTable.map fun e => (e.1, e.2.1)) = stopUnits ∧
      (∀ e ∈ t.dbg.stopTable, s.dbg.stopAt ≤ e.2.2 ∧ e.2.2 ≤ s.dbg.stopAt + 64) ∧ t.cores = s.cores ∧ t.ctxs = s.ctxs) ∧
    (s.dbg.stopped = true →
      (s.mayResume = true → s.portOpen → ∃ t, exec (.resumeNow (.reg 2)) s = .next t ∧ t.dbg.stopped = false ∧
        ((∀ p, (s.port p).rxHeld = []) → t.bel.last = s.bel.last + (s.clk.time - s.dbg.stopAt))) ∧
      (s.mayResume = false → s.portOpen → ∃ t, exec (.resumeNow (.reg 2)) s = .next t ∧ t.dbg.stopped = true ∧ t.bel = s.bel ∧ t.ctxs = s.ctxs ∧
        (s.ev.windows = [] → s.evRoom = false → s.trc.src ≠ 1 → ∃ w, t.ev.windows = [w] ∧ w.code = 0x3110)) ∧
      (s.mayResume = true → s.takes .admin 0x98 d c s₁ → dSlot d ≠ none → ∃ t, exec (.resumeNow (.desc .admin)) s = .next t ∧ t.dbg.stopped = false) ∧
      (s.mayResume = false → s.takes .admin 0x98 d c s₁ → dSlot d ≠ none → exec (.resumeNow (.desc .admin)) s = .next (s.act fun _ => s₁.finish c 0x3110))) ∧
    (s.trc.en = true →
      (s.takes .admin 0x99 d c s₁ → dSlot d ≠ none → ∃ t, exec (.trigger (.desc .admin)) s = .next t ∧ t.trc.triggered = true) ∧
      (s.portOpen → s.trc.policy < 3 → (s.trc.policy = 1 → s.cfg.debug = true) →
        ∃ t, exec (.trigger (.reg (s.trcCtrl ||| 0x20))) s = .next t ∧ t.trc.triggered = true ∧ t.trc.policy = s.trc.policy))

/-! ### Registers and resets (chapters 17 to 19) -/

/-- R385, R406, R417: nothing is served in stage S0; an access where no register lies sets the port's error flag; until
start-up is over a write of another register than PER.CTRL, PER.PUSH and PER.RMAPPUSH is ignored; a selector takes the
numbers of its units and ignores others. The model’s own readings in it: log entry 57. -/
def Obligations.PortAccess : Prop :=
  ∀ (s : State) (off : W16) (v : W32), s.wrap.hold = false →
    let o := regOff off
    (s.cfg.stage = 0 → exec (.registerWrite off v) s = .next s ∧ exec (.pairLoRead off) s = .next s) ∧
    (s.cfg.stage ≠ 0 →
      (s.regRead o = none → exec (.pairLoRead off) s = .next { s with mgmt := { s.mgmt with rdata := 0, err := true } }) ∧
      (s.regWrite o v = .absent → exec (.registerWrite off v) s = .next { s with mgmt := { s.mgmt with err := true } }) ∧
      (s.cfg.done = false → o ≠ 0x1004 → o ≠ 0x1008 → o ≠ 0x100C → s.regWrite o v ≠ .absent →
        exec (.registerWrite off v) s = .next s.portOk)) ∧
    (s.portOpen →
      (fld v 6 0 < 96 → exec (.selectorWrite 0x5000 v) s = .next { s.portOk with mkt := { s.mkt with ctxSel := fld v 6 0 } }) ∧
      (96 ≤ fld v 6 0 → ∃ t, exec (.selectorWrite 0x5000 v) s = .next t ∧ t.mkt = s.mkt) ∧
      (fld v 6 0 < 72 → exec (.selectorWrite 0x7000 v) s = .next { s with mgmt := { s.mgmt with corSel := fld v 6 0, err := false } }) ∧
      (fld v 6 0 < 96 → exec (.selectorWrite 0x1110 v) s = .next { s.portOk with cfg := { s.cfg with seedSel := fld v 6 0 } }) ∧
      (exec (.selectorWrite 0x5018 v) s = .next { s.portOk with mkt := { s.mkt with pitSel := fld v 3 0 } }) ∧
      (exec (.selectorWrite 0x6000 v) s = .next { s with mgmt := { s.mgmt with pitSel := fld v 3 0, err := false } }) ∧
      (exec (.selectorWrite 0x8004 v) s = .next { s with mgmt := { s.mgmt with lnkSel := fld v 1 0, err := false } }) ∧
      (fld v 7 0 < 255 → exec (.selectorWrite 0x8008 v) s = .next { s with mgmt := { s.mgmt with routeSel := fld v 7 0, err := false } }) ∧
      ((bit v 31 = true ∨ fld v 22 16 < 96) → exec (.selectorWrite 0xA104 v) s = .next { s.portOk with cnt := { s.cnt with sel := v &&& 0x807FFFFF } }))

/-- R418: of every pair _LO and _HI, a write of the _HI half is staged until the next write of its _LO half, which commits both, and a write of
the _LO half with nothing staged keeps the upper half that is there; a read of the _LO half captures the upper half, which the
_HI half reads until the next, or 0 where there has been none since a cold reset; PIT.CORES_LO and _HI are registers of
their own, and the _LO half of an HST pair is the low half of its field. -/
def Obligations.PairRegisters : Prop :=
  ∀ (s : State) (v : W32), s.wrap.hold = false → s.cfg.stage ≠ 0 → (
    (∀ off : W16, ∀ w, s.pairVal (regOff off) = some w → ∃ t, exec (.pairLoRead off) s = .next t ∧ t.mgmt.rdata = BitVec.ofNat 32 w ∧
      t.mgmt.err = false ∧ t.regRead (regOff off + 4) = some (BitVec.ofNat 32 (w / 2 ^ 32)) ∧ { t with mgmt := s.mgmt } = s) ∧
    (∀ lo, (s.pairVal lo).isSome = true → s.mgmt.caps.find lo = none → s.regRead (lo + 4) = some 0) ∧
    (∀ st, ∃ t, exec (.coldReset st) s = .next t ∧ t.mgmt.caps = [] ∧ t.mgmt.staged = []) ∧
    (s.cfg.done = true → s.hst.en = false → ∀ e ∈ pairTable,
      (exec (.registerWrite (BitVec.ofNat 16 (e.1 + 4)) v) s = .next { s with mgmt := { s.mgmt with staged := s.mgmt.staged.insert e.1 v, err := false } }) ∧
      (∀ h : W32, s.mgmt.staged.find e.1 = some h → ∃ t, exec (.registerWrite (BitVec.ofNat 16 e.1) v) s = .next t ∧
        t.mgmt.staged = s.mgmt.staged.erase e.1 ∧ t.pairVal e.1 = some ((h ++ v) &&& e.2).toNat) ∧
      (∀ w, s.mgmt.staged.find e.1 = none → s.pairVal e.1 = some w → ∃ t, exec (.registerWrite (BitVec.ofNat 16 e.1) v) s = .next t ∧
        t.pairVal e.1 = some ((BitVec.ofNat 32 (w / 2 ^ 32) ++ v) &&& e.2).toNat)) ∧
    (s.cfg.done = true →
      exec (.registerWrite 0x6004 v) s = .next (s.portOk.modPit s.selPit fun p => { p with stagedLo := v }) ∧
      exec (.registerWrite 0x6008 v) s = .next (s.portOk.modPit s.selPit fun p => { p with stagedHi := v })))

/-- R19, R20: BEL.PERIOD is 1,000,000 at reset; a write of 10,000 to 100,000,000 is held, and another is ignored and reported with PERIOD_RANGE
(0x2006); on a chip that is not linked the period that starts at the next Bell has the new length, on a master the one
whose marker is sent next; on a LOCKED chip, which takes its Bells from markers, writes are ignored with no report. A Bell counts one. -/
def Obligations.BellPeriod : Prop :=
  (State.reset.bel.periodReg = 1000000 ∧ State.reset.bel.period = 1000000) ∧
  (∀ (s : State) (v : W32), s.portOpen →
    let n := fld v 26 0
    (s.bel.linked = true → s.bel.locked = true → exec (.belPeriodWrite v) s = .next s.portOk) ∧
    (s.bel.linked = false → 10000 ≤ n → n ≤ 100000000 →
      exec (.belPeriodWrite v) s = .next { s.portOk with bel := { s.bel with periodReg := n } }) ∧
    (s.bel.linked = false → (n < 10000 ∨ 100000000 < n) → ∃ t, exec (.belPeriodWrite v) s = .next t ∧ t.bel = s.bel ∧
      (s.ev.windows = [] → s.evRoom = false → s.trc.src ≠ 1 → ∃ w, t.ev.windows = [w] ∧ w.code = 0x2006))) ∧
  (∀ (s : State), s.wrap.hold = false →
    (s.bellDue = true → s.bel.barrier = none → ∃ t, exec .bell s = .next t ∧ t.bel.count = s.bel.count + 1 ∧
      (s.bel.linked = false → s.bel.master = false → t.bel.period = s.bel.periodReg) ∧
      (s.bel.linked = false → s.bel.master = true → t.bel.period = s.bel.periodNext ∧
        (s.bel.stopSent = false → t.bel.periodNext = s.bel.periodReg))) ∧
    (s.bellDue = false → exec .bell s = .next s))

/-- R21, R90, R101, R136, R294, R310, R319: what the writes of the Bell's, the host's, the Market's and the pitches'
registers set, and where they are ignored: BEL.CTRL with MASTER and LINKED, MKT.CTXQUOTA past the matching
store, a burst under 4 of an enabled regulator, CFG.DET with a FREE generator in use, BEL.PERIOD on a LINKED chip, LOCKED or not.
The model’s own readings in it: log entries 31 and 75. -/
def Obligations.BellHostAndMarketRegisters : Prop :=
  ∀ (s : State) (v : W32), s.portOpen →
    let i := s.selCtx
    let p := s.selPit
    let n := fld v 16 0
    (bit v 1 = true → bit v 2 = true → ∃ t, exec (.bellEnable v) s = .next t ∧ t.bel = s.bel) ∧
    (bit v 0 = false → (bit v 1 = false ∨ bit v 2 = false) → exec (.bellEnable v) s = .next { s.portOk with
      bel := { s.bel.setCtrl v with running := false, locked := false, barrier := none, awaiting := none } }) ∧
    (bit v 0 = true → bit v 1 = false → bit v 2 = false → bit v 3 = false → s.bel.en = false → s.bel.stopped = false → s.runs = true →
      s.dbg.stopReq = false → s.dbg.holdFrom = none →
      ∃ t, exec (.bellEnable v) s = .next t ∧ t.bel.running = true ∧ t.bel.count = 0 ∧ t.bel.last = s.clk.time ∧ t.bel.period = s.bel.periodReg) ∧
    (s.bel.linked = true → exec (.belPeriodWrite v) s = .next s.portOk) ∧
    (∃ t, exec (.wake v) s = .next t ∧ t.hst.sleeping = false ∧ t.hst.sleepArm = false ∧ t.hst.idle = 0) ∧
    (exec (.adminResume v) s = .next { s.portOk with hst := { s.hst with en := bit v 0, sleepEn := bit v 1, halt := s.hst.halt && !bit v 2 } }) ∧
    ((s.ctx i).slice = none → s.quotaSum - max (s.ctx i).quota (s.ctx i).quotaReg + n ≤ 65536 →
      exec (.ctxQuotaWrite v) s = .next (s.portOk.modCtx i fun c => { c with quotaReg := n, quota := n })) ∧
    ((s.ctx i).slice = none → 65536 < s.quotaSum - max (s.ctx i).quota (s.ctx i).quotaReg + n →
      ∃ t, exec (.ctxQuotaWrite v) s = .next t ∧ t.ctxs = s.ctxs) ∧
    (fld v 15 0 = 0 ∨ 4 ≤ fld v 31 16 →
      exec (.regulatorWrite 0x6010 v) s = .next (s.portOk.modPit p fun x => { x with rd := { x.rd with reg := v, wrote := true } }) ∧
      exec (.regulatorWrite 0x6014 v) s = .next (s.portOk.modPit p fun x => { x with wr := { x.wr with reg := v, wrote := true } }) ∧
      exec (.regulatorWrite 0x6018 v) s = .next (s.portOk.modPit p fun x => { x with tx := { x.tx with reg := v, wrote := true } })) ∧
    (fld v 15 0 ≠ 0 → fld v 31 16 < 4 → ∀ off ∈ [0x6010, 0x6014, 0x6018], ∃ t, exec (.regulatorWrite off v) s = .next t ∧ t.pits = s.pits) ∧
    (exec (.bankForceWrite v) s = .next (s.portOk.modCore s.selCore fun k => { k with
      bankForce := v.extractLsb' 0 24, bankUp := k.bankUp ||| (v.extractLsb' 0 24 &&& ~~~k.bankOn) })) ∧
    (s.cfg.det = false → bit v 0 = true → (∀ j, (s.ctx j).freeReg = false ∧ (s.ctx j).freeOn = false) →
      exec (.detWrite 0x110C v) s = .next { s.portOk with cfg := { s.cfg with det := true } }) ∧
    (s.cfg.det = false → bit v 0 = true → (∃ j, (s.ctx j).freeReg = true ∨ (s.ctx j).freeOn = true) →
      ∃ t, exec (.detWrite 0x110C v) s = .next t ∧ t.cfg.det = false) ∧
    ((s.cfg.det = false ∨ bit v 0 = false) →
      exec (.detWrite 0x111C v) s = .next (s.portOk.modCtx s.selSeed fun c => { c with freeReg := bit v 0 })) ∧
    (s.cfg.det = true → bit v 0 = true → ∃ t, exec (.detWrite 0x111C v) s = .next t ∧ t.ctxs = s.ctxs)

/-- R97, R346, R361, R368, R378, R382, R388: PIT.CTRL.APPLY installs a staged mask that meets no other and whose pitch is empty;
CNT.CTRL clears the global counters alone; TRC.CTRL starts and stops the trace; FORCE_B moves the control supply to B; PWR.TARGET takes
12 to 30 alone, PWR.THROTTLE 0 too, and the emergency and soft requests keep what is written; LNK.CHIP is written with every port disabled; the words of a push are kept until their end is written.
The model’s own readings in it: log entries 75 and 81. -/
def Obligations.PitchTracePowerAndPushRegisters : Prop :=
  ∀ (s : State) (v : W32), s.wrap.hold = false →
    (s.portOpen →
      let p := s.selPit
      let m : W64 := (s.pit p).stagedHi ++ (s.pit p).stagedLo
      (bit v 0 = true → (∀ q, q ≠ p → (s.pit q).mask &&& m = 0) → s.residents p = [] → (s.pit p).install = none →
        (∀ l ∈ s.errs.absent, m.getLsbD l = false) → ∃ t, exec (.applyMask v) s = .next t ∧
        t.pit p = { s.pit p with mask := m, state := if m = 0 then 0 else 1 } ∧ (∀ q, q ≠ p → t.pit q = s.pit q) ∧ s.sameMemories t) ∧
      (bit v 0 = true → ((∃ q, q ≠ p ∧ (s.pit q).mask &&& m ≠ 0) ∨ s.residents p ≠ [] ∨ (s.pit p).install ≠ none) →
        ∃ t, exec (.applyMask v) s = .next t ∧ t.pits = s.pits) ∧
      (bit v 1 = true → exec (.clearCounters v) s = .next { s.portOk with
        cnt := { s.cnt with
          detail := bit v 0, globals := []
          cyc := s.cnt.cyc.mapFinIdx fun i y h => y.clear ((s.core ⟨i, h⟩).counters.get 0) ((s.core ⟨i, h⟩).counters.get 19) }
        cores := s.cores.map fun k => { k with counters := Tab.fill 32 0 } }) ∧
      (fld v 3 2 ≠ 3 → (fld v 3 2 = 1 → s.cfg.debug = true) →
        (bit v 0 = false → exec (.traceControlWrite v) s = .next { s.portOk with
          trc := { ({ s.trc with policy := fld v 3 2, portEn := bit v 4 } : TrcSt).flush with en := false } }) ∧
        (bit v 0 = true → bit v 5 = false → ∃ t, exec (.traceControlWrite v) s = .next t ∧ t.trc.en = true ∧
          t.trc.policy = fld v 3 2 ∧ t.trc.portEn = bit v 4 ∧ t.trc.frozen = false ∧ t.trc.triggered = false ∧ t.trc.ring = [])) ∧
      (fld v 3 2 = 1 → s.cfg.debug = false → ∃ t, exec (.traceControlWrite v) s = .next t ∧ t.trc.policy = s.trc.policy) ∧
      (bit v 1 = true → s.pwr.onB = false → ∃ t, exec (.forceB v) s = .next t ∧
        t.pwr = { s.pwr with autoReturn := bit v 0, forceB := true, onB := true }) ∧
      (12 ≤ fld v 4 0 → fld v 4 0 ≤ 30 → ∃ t, exec (.throttleRequest 0xC008 v) s = .next t ∧ t.pwr.target = fld v 4 0 ∧ t.pwr.aclk = s.pwr.aclk) ∧
      ((fld v 4 0 < 12 ∨ 30 < fld v 4 0) → ∃ t, exec (.throttleRequest 0xC008 v) s = .next t ∧ t.pwr = s.pwr) ∧
      ((fld v 4 0 = 0 ∨ (12 ≤ fld v 4 0 ∧ fld v 4 0 ≤ 30)) →
        ∃ t, exec (.throttleRequest 0xC00C v) s = .next t ∧ t.pwr.throttle = fld v 4 0 ∧ t.pwr.aclk = s.pwr.aclk) ∧
      (12 ≤ fld v 4 0 → fld v 4 0 ≤ 30 → exec (.throttleRequest 0xC010 v) s = .next { s.portOk with pwr := { s.pwr with emergReg := fld v 4 0 } }) ∧
      (12 ≤ fld v 20 16 → fld v 20 16 ≤ 30 → 60 ≤ fld v 7 0 → fld v 7 0 ≤ 104 → exec (.throttleRequest 0xC014 v) s =
        .next { s.portOk with pwr := { s.pwr with softClkReg := fld v 20 16, tsoftReg := fld v 7 0 } }) ∧
      ((∀ q, (s.port q).en = false) → fld v 7 0 ≠ 0xFF → exec (.linkChipWrite v) s = .next { s with
        mgmt := { s.mgmt with chip := fld v 7 0, bellFwd := v.extractLsb' 8 4, err := false } }) ∧
      ((∃ q, (s.port q).en = true) → exec (.linkChipWrite v) s = .next s.portOk)) ∧
    (s.cfg.stage = 3 → s.straps.perSrc = true →
      (s.cfg.pushDone = false → (s.cfg.push.length < 12 ∨ s.cfg.push.length < 64 + (le32 s.cfg.push 8).toNat) →
        exec (.push v) s = .next { s.portOk with cfg := { s.cfg with push := s.cfg.push ++ leBytes 4 v.toNat } }) ∧
      (v = 1 → exec (.pushDone v) s = .next { s.portOk with cfg := { s.cfg with pushDone := true } })) ∧
    (s.cfg.stage = 4 →
      (s.cfg.rmapDone = false → exec (.rmapPush v) s = .next { s.portOk with cfg := { s.cfg with rmapPush := s.cfg.rmapPush ++ leBytes 4 v.toNat } }) ∧
      (v = 2 → exec (.rmapDone v) s = .next { s.portOk with cfg := { s.cfg with rmapDone := true } }))

/-- R383, R385, Table 17.5: a cold reset resets everything and samples the straps; a warm reset keeps the clocks, the straps, the hang rings and
the soft repair map; a block soft reset frees every slot, keeps the context counters and the masks, and runs S6 again; a pitch reset ends
its contexts and its cores' work; a context reset leaves its slot OPEN, a TORN one too, without image or slice and with a new CTX_GEN. The model’s own readings in it: log entries 2 and 59. -/
def Obligations.ResetScopes : Prop :=
  ∀ (s : State),
    (∀ st, exec (.coldReset st) s = .next { State.reset with
      pending := s.pending, free := s.free, hostMem := s.hostMem, devMem := s.devMem, straps := st }) ∧
    (s.wrap.hold = false → (s.cfg.done = true ∨ s.cfg.scope ≠ .cold) → ∃ t, exec .warmReset s = .next t ∧
      t.clk = s.clk ∧ t.straps = s.straps ∧ t.dbg.hang = s.dbg.hang ∧ t.errs.soft = s.errs.soft ∧ t.pwr.tlock = s.pwr.tlock ∧
      t.pwr.flock = s.pwr.flock ∧ t.fuse.devId = s.fuse.devId ∧ t.ctxs = State.reset.ctxs ∧ t.cores = State.reset.cores ∧ t.ports = State.reset.ports ∧ t.mkt = State.reset.mkt ∧
      t.bel = State.reset.bel ∧ t.hst = State.reset.hst ∧ t.cfg.stage = 1 ∧ t.cfg.done = false) ∧
    (s.cfg.done = false → s.cfg.scope = .cold → exec .warmReset s = .next s) ∧
    (s.portOpen →
      (∃ t, exec (.resetBlock 1) s = .next t ∧ (∀ i, (t.ctx i).state = .free ∧ (t.ctx i).counters = (s.ctx i).counters ∧ (t.ctx i).seedReg = 0 ∧
          (t.ctx i).freeReg = (s.ctx i).freeReg) ∧
        (∀ p, (t.pit p).mask = (s.pit p).mask ∧ ((t.pit p).state = 0 ∨ (t.pit p).state = 1)) ∧ t.bel.en = false ∧ t.bel.count = 0 ∧
        (∀ c, (t.core c).imem = (s.core c).imem ∧ (t.core c).lcore = (s.core c).lcore ∧ (t.core c).seq.inst = none ∧ (t.core c).act = []) ∧
        t.errs.fatal = false ∧ t.errs.soft = s.errs.soft ∧ t.clk = s.clk ∧ t.cfg.stage = 6 ∧ t.cfg.done = false ∧ t.cfg.seedSel = s.cfg.seedSel) ∧
      (∀ (p : Pitch) (v : W32), fld v 2 0 = 2 → fld v 7 4 = p.val → ∃ t, exec (.resetPitch v) s = .next t ∧
        (∀ i ∈ s.residents p, (t.ctx i).state = .torn) ∧ (t.pit p).mask = (s.pit p).mask ∧ ((t.pit p).state = 0 ∨ (t.pit p).state = 1) ∧
        ∀ c ∈ s.pitchCores p, (t.core c).seq.inst = none ∧ ∀ u, (t.core c).queue u = []) ∧
      (∀ (i : Slot) (v : W32), fld v 2 0 = 4 → fld v 14 8 = i.val →
        ((s.ctx i).state = .opened ∨ (s.ctx i).state = .loaded → ∃ t, exec (.resetContext v) s = .next t ∧ (t.ctx i).state = .opened ∧
          (t.ctx i).ctxGen = (s.ctx i).ctxGen + 1 ∧ (t.ctx i).image = none ∧ (t.ctx i).slice = none ∧ (t.ctx i).id = (s.ctx i).id) ∧
        ((s.ctx i).state = .torn → ∃ t, exec (.resetContext v) s = .next t ∧ (t.ctx i).state = .opened ∧
          (t.ctx i).ctxGen = (s.ctx i).ctxGen + 1 ∧ (t.ctx i).image = none ∧ (t.ctx i).id = (s.ctx i).id) ∧
        ((s.ctx i).state = .free → exec (.resetContext v) s = .next s.portOk)))

/-! ### Ohmox Link (chapters 2 and 12) -/

/-- R274, R276, R277: EN = 1 takes a port to LOCK; EN = 0 of a port that is UP takes it down, its queues emptied and the contexts that
need it torn down; RETRAIN takes it to LOCK with nothing lost; a training state ends at its condition, fails at its limit, and is tried
again 1 ms later; a mapped lane that loses lock without a spare retrains its port; the PHY lanes are in reset while EN is 0. The model’s own readings in it: log entries 6, 39 and 48. -/
def Obligations.LinkPortsTrain : Prop :=
  ∀ (s : State) (p : LPort), s.wrap.hold = false →
    let x := s.port p
    (∀ v : W32, s.portOpen → s.mgmt.lnkSel = p.val → fld v 5 4 ≠ 3 →
      (bit v 0 = true → x.en = false → ∃ t, exec (.linkEnable v) s = .next t ∧ (t.port p).state = 1 ∧ (t.port p).en = true ∧
        t.phyRstN p = s.linkOn ∧ (t.port p).loop = fld v 5 4 ∧ ∀ q, q ≠ p → t.port q = s.port q) ∧
      (bit v 0 = false → 5 ≤ x.state → ∃ t, exec (.linkEnable v) s = .next t ∧ (t.port p).state = 0 ∧ (t.port p).en = false ∧
        t.phyRstN p = false ∧ (t.port p).replay = [] ∧ (t.port p).vc0 = [] ∧ (t.port p).vc1 = [] ∧ (t.port p).vc2 = [] ∧
        ∀ i ∈ s.portContexts p, (s.ctx i).state ≠ .free → (t.ctx i).state = .torn) ∧
      (bit v 0 = true → bit v 1 = true → x.en = true → x.state ≠ 0 → ∃ t, exec (.retrain v) s = .next t ∧ (t.port p).state = 1 ∧
        (t.port p).retraining = (x.retraining || decide (5 ≤ x.state)) ∧ (t.port p).replay = x.replay ∧ (t.port p).vc0 = x.vc0 ∧ (t.port p).vc1 = x.vc1 ∧ (t.port p).vc2 = x.vc2 ∧
        t.ctxs = s.ctxs)) ∧
    (s.linkOn = true →
      (x.state = 1 → (∀ l ∈ x.mapped, x.rxlock.getLsbD l = true) → ∃ t, exec (.trainingAdvance p) s = .next t ∧ (t.port p).state = 2) ∧
      (x.state = 2 → 4 ≤ x.aligned → ∃ t, exec (.trainingAdvance p) s = .next t ∧ (t.port p).state = 3) ∧
      (x.state = 2 → x.aligned < 4 → exec (.trainingAdvance p) s = .next s) ∧
      (∀ r, x.state = 3 → 8 ≤ x.trainAcks → x.trainRx = some r → x.loop = 0 → fld r 15 8 ≠ 0xFF → fld r 15 8 ≠ s.mgmt.chip →
        (∀ l ∈ x.mapped, x.rxlock.getLsbD l = true ∧ (r.extractLsb' 64 9).getLsbD l = true) →
        ∃ t, exec (.trainingAdvance p) s = .next t ∧ (t.port p).state = 4 ∧ (t.port p).width = 8 ∧ (t.port p).peer = fld r 15 8) ∧
      (x.state = 4 → 16 ≤ x.tsCount → ∃ t, exec (.trainingAdvance p) s = .next t ∧ (t.port p).state = (if x.loop = 0 then 5 else 6) ∧
        (t.port p).retraining = false) ∧
      (1 ≤ x.state → x.state ≤ 4 → ∃ t, exec (.trainingTimeout p) s = .next t ∧ (t.port p).state = 0 ∧ (t.port p).failed = true ∧
        t.clk.time = max s.clk.time (x.since + trainLimit x.state)) ∧
      (x.failed = true → x.en = true → x.state = 0 → ∃ t, exec (.trainingRetry p) s = .next t ∧ (t.port p).state = 1 ∧
        t.clk.time = max s.clk.time (x.since + 1000000)) ∧
      (∀ (l : Fin 9) (b : Bool), (b = true ∨ x.state < 4) → exec (.rxlockChange p l b) s =
        .next (s.modPort p fun y => { y with rxlock := setBit y.rxlock l.val b })) ∧
      (∀ l : Fin 9, 4 ≤ x.state → x.rxlock.getLsbD l.val = true → l.val ∈ x.mapped → x.swap = none → x.width ≠ 8 →
        ∃ t, exec (.rxlockChange p l false) s = .next t ∧ (t.port p).state = 1 ∧ (t.port p).retraining = (x.retraining || decide (5 ≤ x.state))))

/-- R265, R272, R273, R285: an UP port with nothing to send sends IDLE and keeps its SEQ; a link-control slot that waits is sent as DATA
with the next SEQ and kept for replay; a DATA group with the expected SEQ is taken and any other discarded; a bad group asks
for one replay; REPLAY TIMEOUT sends what is kept again; CUT ends the open item. The model’s own readings in it: log entry 24. -/
def Obligations.LinkGroups : Prop :=
  ∀ (s : State) (p : LPort), s.wrap.hold = false → s.linkOn = true →
    let x := s.port p
    (∀ f, x.state = 0 → exec (.groupTransmit p f) s = .next s) ∧
    (∀ f, x.state = 5 → s.dbg.stopped = false → x.resend = [] → x.replay.length < 256 → x.timed = [] → x.txOpen = none →
      x.vc0 = [] → x.vc1 = [] → x.vc2 = [] → x.cvc < 3 → x.loop = 0 →
      (x.reliable = [] → ∃ t g, exec (.groupTransmit p f) s = .next t ∧ (t.port p).out = some g ∧ gType g = 1 ∧
        (t.port p).seq = x.seq ∧ (t.port p).replay = x.replay) ∧
      (∀ c, x.reliable = [c] → timedSlot c = false → ∃ t g, exec (.groupTransmit p f) s = .next t ∧ (t.port p).out = some g ∧ gType g = 0 ∧
        gSeq g = x.seq ∧ g.slots.head? = some c ∧ slotKind g 0 = 3 ∧ (t.port p).seq = x.seq + 1 ∧ (t.port p).reliable = [] ∧
        (t.port p).replay = x.replay ++ [(x.seq, g)])) ∧
    (∀ rx : RxGroup, x.state = 5 → x.loop ≠ 1 →
      let good : Prop := (∀ l ∈ rx.errors, (rsCorrect l).isSome = true) ∧ crc32 (groupBytes (receivedGroup rx).hdr (receivedGroup rx).slots) = (receivedGroup rx).crc
      let g := receivedGroup rx
      ((∀ l ∈ rx.errors, l = []) → g = rx.g) ∧
      (good → gType g = 0 → bit g.hdr 83 = false → gSeq g = x.lastGood + 1 →
        ∃ t, exec (.groupReceive p rx) s = .next t ∧ (t.port p).lastGood = gSeq g ∧ (t.port p).nakSent = false) ∧
      (good → gType g = 0 → bit g.hdr 83 = false → gSeq g ≠ x.lastGood + 1 →
        ∃ t, exec (.groupReceive p rx) s = .next t ∧ (t.port p).lastGood = x.lastGood ∧ (t.port p).rxOpen = x.rxOpen ∧
          (t.port p).rxHeld = x.rxHeld ∧ t.cores = s.cores) ∧
      (¬ good → ∃ t, exec (.groupReceive p rx) s = .next t ∧ (t.port p).lastGood = x.lastGood ∧ (t.port p).nakSent = true ∧
        (t.port p).rxOpen = x.rxOpen ∧ (t.port p).ctlIn = x.ctlIn ∧ (x.nakSent = false → (t.port p).nakDue = true))) ∧
    (5 ≤ x.state → x.replay ≠ [] →
      (x.idleReplays < max 1 (fld x.replayReg 19 16) → ∃ t, exec (.replayTimeout p) s = .next t ∧ (t.port p).resend = x.replay.map (·.1) ∧
        (t.port p).idleReplays = x.idleReplays + 1 ∧ (t.port p).replay = x.replay ∧ (t.port p).state = x.state) ∧
      (max 1 (fld x.replayReg 19 16) ≤ x.idleReplays → ∃ t, exec (.replayTimeout p) s = .next t ∧ (t.port p).state = 1 ∧
        (t.port p).replay = x.replay)) ∧
    (∀ k, s.dbg.stopped = false → x.rxHeld = [(3, k)] → cType k = 8 →
      ∃ t, exec (.cut p) s = .next t ∧ (t.port p).rxHeld = [] ∧ (t.port p).rxOpen = none)

/-- R278, R281: a LANE_SWAP request is answered and a lane that has moved in both directions is in the map as the spare;
a time-sync request leaves every 1,024 ns, is answered with its receive time, and its first answer gives offset and delay.
The model’s own readings in it: log entries 6, 49 and 50. -/
def Obligations.LaneExchangeAndTimeSync : Prop :=
  ∀ (s : State) (p : LPort) (c : CtlIn) (rest : List CtlIn), s.wrap.hold = false → s.linkOn = true →
    let x := s.port p
    (x.ctlIn = c :: rest → cType c.slot = 5 → x.swap = none → fld c.slot 23 16 = 0 → fld c.slot 15 8 ∈ x.mapped →
      exec (.laneSwap p) s = .next (s.modPort p fun y => { y with
        ctlIn := rest, swap := some { lane := fld c.slot 15 8, txAt := x.announced, rxAt := some (fld c.slot 95 32) }
        reliable := x.reliable ++ [laneSwapSlot (fld c.slot 15 8) 1 x.announced] })) ∧
    (∀ w, x.swap = some w → w.txDone = false →
      (w.rxDone = false → ∃ t, exec (.laneSwapEffect p true) s = .next t ∧ (t.port p).swap = some { w with txDone := true } ∧
        (t.port p).laneMap = x.laneMap) ∧
      (w.rxDone = true → ∃ t, exec (.laneSwapEffect p true) s = .next t ∧ (t.port p).swap = none ∧
        (t.port p).laneMap = replaceLane x.laneMap w.lane x.spareLane ∧ t.errs.softSeq = s.errs.softSeq + 1)) ∧
    (∀ w, x.swap = some w → w.rxDone = false → w.rxAt ≠ none →
      (w.txDone = false → ∃ t, exec (.laneSwapEffect p false) s = .next t ∧ (t.port p).swap = some { w with rxDone := true } ∧
        (t.port p).laneMap = x.laneMap) ∧
      (w.txDone = true → ∃ t, exec (.laneSwapEffect p false) s = .next t ∧ (t.port p).swap = none ∧
        (t.port p).laneMap = replaceLane x.laneMap w.lane x.spareLane ∧ t.errs.softSeq = s.errs.softSeq + 1)) ∧
    ((x.state = 4 ∨ x.state = 5) → ∃ t, exec (.tsyncSend p) s = .next t ∧ (t.port p).timed = x.timed ++ [3] ∧
      t.clk.time = max s.clk.time x.tsNext ∧ (t.port p).tsNext = t.clk.time + 1024 ∧ (t.port p).phylat = x.phylatReg) ∧
    (x.ctlIn = c :: rest → cType c.slot = 3 → ∃ t k, exec (.tsyncReq p) s = .next t ∧ (t.port p).timed = x.timed ++ [k] ∧
      (t.port p).ctlIn = rest ∧ cType k = 4 ∧ fld k 127 64 = fld c.slot 127 64 ∧ fld k 191 128 = c.t % 2 ^ 64) ∧
    (x.ctlIn = c :: rest → cType c.slot = 4 → x.tsync = [] → ∃ t off delay, exec (.tsyncRsp p) s = .next t ∧
      (t.port p).tsync = [(off, delay, (c.t : Int))] ∧ (t.port p).tsCount = x.tsCount + 1 ∧ (t.port p).ctlIn = rest ∧
      let t1 : Int := fld c.slot 127 64
      let t2 : Int := fld c.slot 191 128
      let t3 : Int := fld c.slot 255 192
      off = ((t2 - t1) - (c.t - t3)) / 2 ∧ delay = ((t2 - t1) + (c.t - t3)) / 2)

/-- R40 to R43, R387: the marker of the next Bell fixes its time, period and stop, and one of another Bell fixes nothing; the first
BARRIER names Bell 0; a master sends it 100 µs ahead once ZREADY is high and its ports are UP, and again every 1,024 ns; a missed
marker is counted and the second clears LOCKED; a wait of 100 ms is reported once; R18: without a marker the Bell comes
one period after the one before. The model’s own readings in it: log entries 6 and 51. -/
def Obligations.BellMarkers : Prop :=
  ∀ (s : State) (p : LPort) (c : CtlIn) (rest : List CtlIn), s.wrap.hold = false →
    let m := readMarker c.slot
    let at' := markerTime m (s.masterOffset p m)
    (s.linkOn = true → (s.port p).ctlIn = c :: rest → s.bel.linked = true → s.bel.upstream = p →
      (cType c.slot = 1 → s.bel.locked = true → s.bel.running = true → s.bel.missSaid = false →
        (m.bell = s.bel.count + 1 → ∃ t, exec (.bellMarker p) s = .next t ∧
          t.bel = { s.bel with marker := some (at', m.period, m.stop), missed := 0 } ∧ (t.port p).ctlIn = rest) ∧
        (m.bell ≠ s.bel.count + 1 → ∃ t, exec (.bellMarker p) s = .next t ∧ t.bel = s.bel ∧ (t.port p).ctlIn = rest)) ∧
      (cType c.slot = 2 → s.bel.en = true → s.bel.awaiting ≠ none → s.bel.barrier = none → ∃ t, exec (.barrier p) s = .next t ∧
        t.bel = { s.bel with barrier := some (m.ts, at'), marker := some (at', m.period, m.stop) })) ∧
    (s.runs = true → s.bel.en = true → s.bel.master = true → s.bel.barrier = none →
      (s.bel.awaiting ≠ none → s.cfg.zIn = true → s.bellPortsUp = true → ∃ t, exec .barrierSend s = .next t ∧
        t.bel.barrier = some (s.clk.time + 100000, s.clk.time + 100000) ∧ t.bel.periodNext = s.bel.periodReg ∧
        ∀ q : LPort, ∃ k, (t.port q).timed = (s.port q).timed ++ (if s.mgmt.bellFwd.getLsbD q.val then [k] else []) ∧ cType k = 2) ∧
      (s.cfg.zIn = false → exec .barrierSend s = .next s) ∧
      (∀ a, s.bel.awaiting = some a → s.bel.waitSaid = false → ∃ t, exec .zreadyTimeout s = .next t ∧ t.bel = { s.bel with waitSaid := true } ∧
        t.clk.time = max s.clk.time (a + 100000000))) ∧
    (s.bellDue = true → s.bel.barrier = none → s.bel.marker = none →
      ∃ t, exec .bell s = .next t ∧ t.bel.last = max s.clk.time (s.bel.last + s.bel.period)) ∧
    (∀ b, s.runs = true → s.bel.en = true → s.bel.master = true → s.bel.barrier = some b → s.bel.barrierAgain < b.2 →
      ∃ t, exec .barrierRepeat s = .next t ∧ t.bel = { s.bel with barrierAgain := s.bel.barrierAgain + 1024 } ∧
        t.clk.time = max s.clk.time s.bel.barrierAgain) ∧
    (s.runs = true → s.bel.en = true → s.bel.linked = true →
      (s.bel.locked = true → s.bel.running = true → s.bel.marker = none → s.bel.missSaid = false → ∃ t, exec .markerMissed s = .next t ∧
        t.bel = { s.bel with missSaid := true, markerMissed := true, missed := s.bel.missed + 1, locked := decide (s.bel.missed = 0) }) ∧
      (∀ a, s.bel.awaiting = some a → s.bel.barrier = none → s.bel.waitSaid = false → ∃ t, exec .barrierWait s = .next t ∧
        t.bel = { s.bel with waitSaid := true } ∧ t.clk.time = max s.clk.time (a + 100000000)))

/-- R44, R45: the deciding chip keeps a vote for the step in service; a decision to commit advances the step of the held member, one to abort
keeps it, and one that comes before the member's Bell waits; a member with no decision in time is in doubt.
The model’s own readings in it: log entries 6, 52, 54 and 75. -/
def Obligations.VotesAndDecisions : Prop :=
  ∀ (s : State) (p : LPort) (c : CtlIn) (rest : List CtlIn) (i : Slot), s.wrap.hold = false →
    (s.linkOn = true → (s.port p).ctlIn = c :: rest → s.linkedCtx c.slot = some i → (s.ctx i).slice ≠ none →
      (s.ctx i).step.toNat = fld c.slot 127 64 →
      (cType c.slot = 6 → (s.ctx i).decides s.mgmt.chip = true → ∃ t, exec (.vote p) s = .next t ∧ fld c.slot 23 16 ∈ (t.ctx i).votes ∧
        (t.port p).ctlIn = rest ∧ (t.ctx i).slice = (s.ctx i).slice ∧ t.cores = s.cores) ∧
      (cType c.slot = 7 → s.dbg.stopped = false →
        ((s.ctx i).held = none → exec (.decision p) s = .next s) ∧
        ((s.ctx i).held ≠ none → fld c.slot 135 128 = 0 → ∃ t, exec (.decision p) s = .next t ∧ (t.ctx i).step = (s.ctx i).step + 1 ∧
          (t.ctx i).slice = none ∧ (t.ctx i).held = none ∧ (t.ctx i).statCom = (s.ctx i).statRun) ∧
        ((s.ctx i).held ≠ none → fld c.slot 135 128 = 1 → ∃ t, exec (.decision p) s = .next t ∧ (t.ctx i).step = (s.ctx i).step ∧
          (t.ctx i).slice = none ∧ (t.ctx i).statCom = (s.ctx i).statCom))) ∧
    (s.runs = true → (s.ctx i).held ≠ none → (s.ctx i).inDoubt = false → ∃ t, exec (.commitInDoubt i) s = .next t ∧
      t.ctx i = { s.ctx i with inDoubt := true } ∧ t.clk.time = max s.clk.time (s.bel.last + s.bel.guard)) ∧
    ((s.ctx i).held = none → exec (.commitInDoubt i) s = .next s) ∧
    ((s.port p).ctlIn = c :: rest → cType c.slot = 7 → s.dbg.stopped = true → exec (.decision p) s = .next s)

/-! ### Start-up, power and the test wrapper (chapters 17 and 18) -/

/-- R385 to R390, R407: each stage of start-up ends with its event and the next begins: the loops locked, the fuses read, the personality
applied, or the factory defaults with the REASON of the first check that fails, the repair maps, the supplies, the start-up order, and service with
ZREADY released unless HOLD is 1. A push or a repair map that does not come in 1 s is gone without. The model’s own readings in it: log entries 6, 60, 61, 62, 83 and 84. -/
def Obligations.StartUpStages : Prop :=
  ∀ (s : State), s.wrap.hold = false →
    (s.cfg.done = false →
      (s.cfg.stage = 0 → exec (.loopsLocked .startUp) s = .next { s with
        pwr := { s.pwr with tlock := true, flock := true, bOk := true, aryPg := true, memPg := true }, cfg := { s.cfg with stage := 1, stageAt := s.clk.time } }) ∧
      (∀ bs, s.cfg.stage = 1 → s.cfg.stageAt + 43691 > s.clk.time → le16 bs 0x14 = 0 → ∃ t, exec (.fuseRead bs) s = .next t ∧
        t.fuse.keys = (List.range 4).map (fun k => fuseBytes bs (0x20 + 32 * k) 32) ∧ t.cfg.stage = 3 ∧
        t.clk.time = s.cfg.stageAt + 43691) ∧
      (∀ bs, s.cfg.stage = 2 → le16 bs 0x14 = 0 → exec (.fuseRead bs) s = .next { s with
        fuse := { devId := fuseBytes bs 0 16, revoke := (le32 bs 0x10).extractLsb' 0 4, testLock := bit (le32 bs 0x10) 4
                  keys := (List.range 4).map fun k => fuseBytes bs (0x20 + 32 * k) 32 }
        cfg := { s.cfg with stage := 3, stageAt := s.clk.time } }) ∧
      (s.cfg.stage = 3 →
        (∀ nv n, s.straps.perSrc = false → s.perCheck nv = .error n → ∃ t, exec (.personalityLoad nv) s = .next t ∧
          t.cfg.fallback = true ∧ t.cfg.reason = n ∧ t.cfg.debug = s.cfg.debug ∧ t.cfg.perDone = true ∧ t.cfg.stage = 4) ∧
        (∀ nv seq k l, s.straps.perSrc = false → s.perCheck nv = .ok (seq, k, l) → bodyOf l 1 = none → ∃ t, exec (.personalityLoad nv) s = .next t ∧
          t.cfg.fallback = s.cfg.fallback ∧ t.cfg.perSeq = seq ∧ t.cfg.keySlot = k ∧ t.cfg.order = (bodyOf l 2).map stepsOf ∧
          t.cfg.debug = (match bodyOf l 4 with | some b => bit (le32 b 0) 0 | none => false) ∧ t.cfg.perDone = true ∧ t.cfg.stage = 4) ∧
        (s.straps.perSrc = true → s.cfg.pushDone = false → (∀ nv, exec (.personalityLoad nv) s = .next s) ∧
          ∃ t, exec .pushTimeout s = .next t ∧ t.cfg.fallback = true ∧ t.cfg.reason = 8 ∧ t.cfg.stage = 4 ∧
            t.clk.time = max s.clk.time (s.cfg.stageAt + 1000000000))) ∧
      (s.cfg.stage = 4 →
        (s.straps.rmapWait = true → s.cfg.rmapDone = false → exec .rmapWait s = .next s ∧
          ∃ t, exec .rmapWaitTimeout s = .next t ∧ t.cfg.stage = 5 ∧ t.clk.time = max s.clk.time (s.cfg.stageAt + 1000000000)) ∧
        (s.straps.rmapWait = false → s.cfg.rmapDone = false → s.errs.hard = [] → s.errs.soft = [] → ∃ t, exec .rmapWait s = .next t ∧
          t.cores = s.cores ∧ t.cfg.stage = 5 ∧ ∀ l, l ∈ t.errs.absent ↔ ∀ c, (s.core c).lcore ≠ some l)) ∧
      (s.cfg.stage = 5 → exec .supplyStage s = .next { s with
        pwr := { s.pwr with aryPg := true, memPg := true, vid := s.vidOf 12, vok := true, aclk := 12, goal := 12, alock := false, trans := none }
        cfg := { s.cfg with stage := 6, stageAt := s.clk.time } }) ∧
      (s.cfg.stage = 6 →
        (s.pwr.aryPg = true → s.pwr.memPg = true → s.cfg.order = none → ∃ t, exec .startupOrder s = .next t ∧ t.pwr.alock = true ∧ t.pwr.aclk = 12 ∧
          t.cfg.stage = 6 ∧ ∀ d < 12, t.cfg.domains.at? d = some { lock := true, unparked := true, released := true, write := true }) ∧
        ((∀ d ∈ s.cfg.domains.toList, d.write = true) → ∃ t, exec .startupDone s = .next t ∧ t.cfg.done = true ∧ t.cfg.stage = 7 ∧
          t.cfg.zDrive = s.cfg.zHold) ∧
        ((∃ d ∈ s.cfg.domains.toList, d.write = false) → exec .startupDone s = .next s))) ∧
    (∀ b, s.pwr.flock = true → (b = false ∨ s.cfg.zDrive = false) →
      exec (.zreadyChange b) s = .next { s with cfg := { s.cfg with zIn := b } })

/-- R376 to R382, R384, R399: a lost supply parks every port at the values of its strap, ends every context and empties the scratch memories, but for instruction memory; its return runs S5 to S7
again; the mux moves to B and back as R378 says and no state but its own changes; an A-loop that unlocks gates the array, an F-loop
or T-loop that unlocks is FATAL_ERROR; a transition ends at its clock; ARY_VOK lets a raise go on, and a raise without it for 50 µs
is given up; the requests of Table 17.4 are raised and withdrawn. The model’s own readings in it: log entries 6, 63, 64, 65 and 66. -/
def Obligations.SuppliesAndClocks : Prop :=
  ∀ (s : State), s.wrap.hold = false →
    (∀ mem, s.cfg.stage = 7 → (∀ h ∈ s.ev.held, ∀ i d, h.waitFor ≠ .tensor i d) → ∃ t, exec (.supplyLost mem) s = .next t ∧
      (mem = true → t.pwr.memPg = false) ∧ (mem = false → t.pwr.aryPg = false) ∧ t.pwr.gated = true ∧
      (∀ g b, t.valid g b = false) ∧ (∀ g (v : BitVec 128), t.bus g v = if s.parkStrap g then BitVec.allOnes 128 else 0) ∧
      (∀ i, (s.ctx i).state ≠ .free → (t.ctx i).state = .torn) ∧
      ∀ c, (t.core c).imem = (s.core c).imem ∧ (t.core c).bankOn = 0 ∧ ∀ m, ((t.core c).mem m) = []) ∧
    (s.cfg.done = true → (s.pwr.aryPg && s.pwr.memPg) = false → exec .supplyRestored s = .next { s with
      cfg := { s.cfg with done := false, scope := .soft, stage := 5, stageAt := s.clk.time }, pwr := { s.pwr with aryPg := true, memPg := true } }) ∧
    (s.pwr.onB = false → ∃ t, exec .ctlSwitchover s = .next t ∧ t.pwr = { s.pwr with bOk := true, bLowSaid := false, onB := true } ∧
      t.ctxs = s.ctxs ∧ t.cores = s.cores ∧ t.bel = s.bel ∧ t.clk = s.clk) ∧
    (s.pwr.onB = true → s.pwr.autoReturn = true → s.pwr.forceB = false → ∃ t, exec .ctlReturn s = .next t ∧ t.pwr = { s.pwr with onB := false } ∧
      t.ctxs = s.ctxs ∧ t.cores = s.cores ∧ t.bel = s.bel ∧ t.clk = s.clk) ∧
    ((s.pwr.onB = false ∨ s.pwr.autoReturn = false ∨ s.pwr.forceB = true) → exec .ctlReturn s = .next s) ∧
    (s.pwr.onB = false → ∃ t, exec .ctlBackupLow s = .next t ∧ t.pwr = { s.pwr with bOk := false, bLowSaid := true }) ∧
    (s.pwr.tlock = true → s.pwr.flock = true →
      (s.cfg.done = true → s.pwr.aryPg = true → s.pwr.memPg = true →
        (s.pwr.alock = true → s.pwr.trans = none → ∃ t, exec (.loopCheck .aLoop false) s = .next t ∧
          t.pwr = { s.pwr with alock := false, gated := true, relockAt := s.clk.time }) ∧
        (s.pwr.alock = false → s.pwr.gated = true → ∃ t, exec (.loopsLocked .aLoop) s = .next t ∧ t.pwr.alock = true ∧ t.pwr.aclk = s.pwr.aclk)) ∧
      (∃ t, exec (.loopCheck .fLoop false) s = .next t ∧ t.errs.fatal = true ∧ t.pwr.flock = false) ∧
      (∃ t, exec (.loopCheck .tLoop false) s = .next t ∧ t.errs.fatal = true ∧ t.pwr.tlock = false)) ∧
    (∀ l, exec (.loopCheck l true) s = .next s) ∧
    (∀ x, s.pwr.trans = some x →
      (x.waitVok = false → ∃ t, exec .clockTransitionEnd s = .next t ∧ t.pwr.aclk = x.target ∧ t.clk.time = max s.clk.time (x.since + 1000)) ∧
      (x.waitVok = true → exec .aryVok s = .next { s with
        pwr := { s.pwr with vok := true, gated := true, trans := some { x with waitVok := false, since := s.clk.time } } }) ∧
      (x.waitVok = true → s.clockTarget = s.pwr.goal → ∃ t, exec .vidTimeout s = .next t ∧ t.pwr = { s.pwr with trans := none, vid := x.oldVid } ∧
        t.clk.time = max s.clk.time (x.since + 50000))) ∧
    (∃ t, exec (.emergencyRequest .pin true) s = .next t ∧ t.pwr.emergPin = some (s.pwr.emergPin.getD s.pwr.emergReg)) ∧
    (∃ t, exec (.emergencyRequest .pin false) s = .next t ∧ t.pwr.emergPin = none) ∧
    (∀ raw, s.cfg.stage ≠ 0 →
      let n := hottest raw s.cfg.offsets
      ∃ t, exec (.thermalReading raw) s = .next t ∧ t.pwr.temp = n ∧ (105 ≤ n → t.pwr.emergTherm = true) ∧
        (s.pwr.tsoftReg ≤ n → t.pwr.soft = true ∧ t.pwr.softClk = s.pwr.softClkReg))

/-- R409: EXTEST, INTEST, CLAMP, SCAN and MBIST hold the block as in a cold reset, with no key, until PWRON_RST_N is pulsed: until then no
command but COLD_RESET, UPDATE_WR and MBIST_DONE changes anything. Under TEST_LOCK INTEST and SCAN select BYPASS, and a reserved code always
does. MBIST gives its 80 pass bits, with TEST_LOCK or without; IDCODE holds nothing. The model’s own readings in it:
log entries 67 and 84. -/
def Obligations.TestWrapperHolds : Prop :=
  ∀ (s : State), (
    (∀ u : WrUpdate,
      (1 ≤ u.code.toNat → u.code.toNat ≤ 5 → (s.fuse.testLock = true → u.code ≠ 2 ∧ u.code ≠ 4) →
        exec (.updateWr u) s = .next { State.reset with
          pending := s.pending, free := s.free, hostMem := s.hostMem, devMem := s.devMem, straps := s.straps
          fuse := { State.reset.fuse with testLock := s.fuse.testLock }
          wrap := { State.reset.wrap with wir := u.code, hold := true, cells := u.cells ++ s.wrap.cells } }) ∧
      ((u.code = 0 ∨ 7 ≤ u.code.toNat ∨ (s.fuse.testLock = true ∧ (u.code = 2 ∨ u.code = 4))) →
        exec (.updateWr u) s = .next { s with wrap := { s.wrap with wir := 0, cells := u.cells ++ s.wrap.cells } }) ∧
      (u.code = 6 → exec (.updateWr u) s = .next { s with wrap := { s.wrap with wir := 6, cells := u.cells ++ s.wrap.cells } })) ∧
    (s.wrap.hold = true → ∀ i : Instr, (∀ st, i ≠ .coldReset st) → (∀ u, i ≠ .updateWr u) → (∀ res, i ≠ .mbistDone res) →
      exec i s = .next s) ∧
    (s.wrap.hold = true → ∀ st, ∃ t, exec (.coldReset st) s = .next t ∧ t.wrap.hold = false) ∧
    (∀ res, s.wrap.hold = true → s.wrap.wir = 5 → exec (.mbistDone res) s = .next { s with wrap := { s.wrap with mbist := res } }) ∧
    (∀ res, (s.wrap.hold = false ∨ s.wrap.wir ≠ 5) → exec (.mbistDone res) s = .next s))

/-! ### Memory ports and the trace port (chapters 16 and 18) -/

/-- R310, R336, R400 to R404: a beat of the host port is what host memory reads there; a clean beat of a memory port is what device memory
reads there, and an uncorrectable word of a context's read tears the context down; a translation fault of the supervisor halts
the admin ring. An acknowledgement ends its write: the last write of a slice whose instances are all retired makes it complete, and one that
no write carries changes nothing. While the block is stopped-now it releases nothing, and no write that waits is sent (Table 16.1). The model’s own readings
in it: log entries 3, 4, 54 and 68. -/
def Obligations.MemoryPortTraffic : Prop :=
  ∀ (s : State), s.wrap.hold = false →
    (∀ b : Beat, s.cfg.stage ≠ 0 →
      (b.err = 0 → b.port = 16 → exec (.memReadBeat b) s = .next { s with
        hostMem := s.hostMem.writeBytes b.addr.toNat (b.data.flatMap fun d => leBytes 16 d.toNat) }) ∧
      (b.err = 0 → b.port ≠ 16 → (∀ x ∈ b.data.zip b.chk, eccDecode (beatWord x.1 x.2) = .clean) → b.chk.length = b.data.length →
        ∃ t, exec (.memReadBeat b) s = .next t ∧ t.devMem = s.devMem.writeBytes b.addr.toNat (b.data.flatMap fun d => leBytes 16 d.toNat)) ∧
      (∀ i, b.err = 0 → b.port ≠ 16 → b.who = .ctx i → ((s.ctx i).state = .opened ∨ (s.ctx i).state = .loaded) →
        (∃ x ∈ b.data.zip b.chk, eccDecode (beatWord x.1 x.2) = .uncorrectable) →
        ∃ t, exec (.memReadBeat b) s = .next t ∧ (t.ctx i).state = .torn ∧ (t.ctx i).outcome = some (3, 0x5005)) ∧
      (b.err = 1 → b.who = .supervisor → ∃ t, exec (.memReadBeat b) s = .next t ∧ t.hst.halt = true)) ∧
    (∀ p tag err, (∀ w ∈ s.outst, ¬ (w.port = p ∧ w.tag = tag)) → exec (.memWriteAck p tag err) s = .next s) ∧
    (∀ p tag w i c n, (s.outst.find? fun w => w.port == p && w.tag == tag && !w.waits) = some w → w.owner = .slice i c n →
      s.pwr.lost = false →
      (s.dbg.stopped = true → exec (.memWriteAck p tag 0) s = .next { s with outst := s.outst.erase w }) ∧
      ((∀ y ∈ s.outst, y.waits = false) → sendWaiting s.clk.cycle [] (s.outst.erase w) = s.outst.erase w) ∧
      (∀ l im, s.dbg.stopped = false → (s.ctx i).slice = some l → (s.ctx i).image = some im → l.complete = false → (s.ctx i).held = none →
        (s.ctx i).group.linked = false → im.tasks ≤ l.retired + l.skipped → (∀ y ∈ s.outst.erase w, ∀ c n, y.owner ≠ .slice i c n) →
        ∃ t l', exec (.memWriteAck p tag 0) s = .next t ∧ (t.ctx i).slice = some l' ∧ l'.complete = true ∧ l'.retired = l.retired))

/-- R326, R365 to R367, R370: the open packet closes into the ring while it has room; a SYNC record and a PC sample of a core join the open packet, the
sample in the core's sampling cycle and with its PC; the trace port gives 16 bytes of the unit at the head of the ring, which leaves the ring with its
last beat. None of these changes a core, a context or a memory. The model’s own readings in it: log entries 6, 55 and 81. -/
def Obligations.TraceRecordsAndPort : Prop :=
  ∀ (s : State), s.wrap.hold = false →
    (s.trc.en = true → s.trc.packet ≠ [] → s.trc.packet.length ≤ 64 → (∀ r ∈ s.trc.packet, r.length = 32) → s.trc.heldPkt = none → s.trc.lostSince = 0 → s.trc.level ≤ 65000 →
      ∃ t u, exec .tracePacketClose s = .next t ∧ t.trc.packet = [] ∧ t.trc.ring = s.trc.ring ++ [u] ∧ t.trc.lost = s.trc.lost ∧
        u = packetItem s.trc.epoch (max s.clk.time (s.trc.firstAt + 1024)) s.trc.packet ∧ t.cores = s.cores ∧ t.ctxs = s.ctxs) ∧
    (s.trc.en = true → s.trc.frozen = false → s.trc.left = none → s.trc.packet.length < 63 → s.trc.heldPkt = none →
      (∃ t, exec .traceSync s = .next t ∧ t.clk.time = max s.clk.time (s.trc.syncAt + 2 ^ 31) ∧ t.trc.syncAt = t.clk.time ∧ t.trc.packet = s.trc.packet ++
        [leBytes 4 (t.clk.time % 2 ^ 32) ++ [1, 0x7F] ++ leBytes 2 0x6000 ++ leBytes 8 t.clk.time ++ leBytes 8 s.bel.count.toNat ++ List.replicate 8 0] ∧
        t.cores = s.cores ∧ t.ctxs = s.ctxs) ∧
      (∀ c, s.runs = true → s.trc.kinds.getLsbD 3 = true → 6 ≤ s.trc.pcsamp → (s.core c).retired = false → s.trc.src ≠ 4 →
        ∃ t r, exec (.pcsample c) s = .next t ∧ t.trc.packet = s.trc.packet ++ [r] ∧ t.cores = s.cores ∧ t.ctxs = s.ctxs ∧
          (t.clk.cycle + 97 * c.val) % 2 ^ s.trc.pcsamp = 0 ∧ s.clk.cycle ≤ t.clk.cycle ∧ t.clk.cycle < s.clk.cycle + 2 ^ s.trc.pcsamp ∧
          r[4]? = some 4 ∧ le16 r 8 = BitVec.ofNat 16 (s.core c).seq.pc.toNat ∧ (r[10]?).map (·.toNat) = some (s.stallState c))) ∧
    (s.trc.en = false → exec .traceSync s = .next s) ∧
    (∀ h rest, s.trc.portEn = true → s.trc.policy ≠ 2 → s.cfg.done = true → s.pwr.lost = false → s.trc.ring = h :: rest →
      (s.trc.beat < 48 → exec .traceBeat s = .next { s with trc := { s.trc with
        out := some (BitVec.ofNat 128 (leNat ((h.drop s.trc.beat).take 16))), beat := s.trc.beat + 16 } }) ∧
      (s.trc.beat = 48 → h.length ≤ 64 → s.trc.heldPkt = none → ∃ t, exec .traceBeat s = .next t ∧ t.trc.ring = rest ∧ t.trc.beat = 0 ∧
        t.trc.out = some (BitVec.ofNat 128 (leNat ((h.drop 48).take 16))) ∧ t.cores = s.cores ∧ t.ctxs = s.ctxs)) ∧
    ((s.trc.portEn = false ∨ s.trc.policy = 2) → exec .traceBeat s = .next s)

/-! ### The whole block -/

/-- One step takes the command at the front of the queue and runs it on the state with the rest of the queue; with no command
waiting one fabric cycle goes by, and no command appears (log entries 1 and 5). -/
def Obligations.StepRunsTheFrontCommand : Prop :=
  (∀ (s : State) (c : Instr) (rest : List Instr), s.pending = c :: rest → step s = exec c { s with pending := rest }) ∧
  (∀ (s : State), s.pending = [] → ∃ t, step s = .next t ∧ t.pending = [] ∧ t.wrap = s.wrap ∧ t.straps = s.straps ∧ t.fuse = s.fuse)

/-- The block never stops: every command in every state answers a next state, the commands that wait stay as they are, the straps change at a
cold reset alone (R385, R399), what the fuses hold at a reset, at FUSE_READ and at UPDATE_WR alone (R407), and the wrapper at a cold reset,
UPDATE_WR and MBIST_DONE alone (R408). The model’s own readings in it: log entry 7. -/
def Obligations.CommandsAlwaysAnswer : Prop :=
  ∀ (i : Instr) (s : State), ∃ t, exec i s = .next t ∧ t.pending = s.pending ∧
    ((∀ st, i ≠ .coldReset st) → t.straps = s.straps) ∧
    ((∀ st, i ≠ .coldReset st) → i ≠ .warmReset → (∀ bs, i ≠ .fuseRead bs) → (∀ code, i ≠ .updateWr code) → t.fuse = s.fuse) ∧
    ((∀ st, i ≠ .coldReset st) → (∀ code, i ≠ .updateWr code) → (∀ res, i ≠ .mbistDone res) → t.wrap = s.wrap)

/-- R218: a sequencer instruction's word decodes to it with every operand bit, and a word that decodes is the word of the
instruction that it decodes to. -/
def Obligations.SequencerWordsRoundTrip : Prop :=
  (∀ (i : Instr) (c : PCore) (v : W32), encodeSeq i = some (c, v) → decodeSeqWord c v = some i) ∧
  (∀ (c : PCore) (v : W32) (i : Instr), decodeSeqWord c v = some i → encodeSeq i = some (c, v))

/-- R407 to R409: every step keeps what is true of the test wrapper and of the fuses: no reserved wrapper code is in force, the identity and the
keys have their sizes, and a block that the wrapper holds is as in a cold reset with no key kept. -/
def Obligations.WrapperInvariantKept : Prop := ∀ (s t : State), s.wrapperOk → step s = .next t → t.wrapperOk

/-- R383, Table 17.5, R19: the block right after a cold reset: no command waits, every slot FREE, no mask, no memory listed, the Bell not
enabled and its period 1,000,000, every port DOWN, start-up in S0; and what is true of the wrapper holds.
The model’s own readings in it: log entry 2. -/
def Obligations.ResetState : Prop :=
  let s := State.reset
  s.pending = [] ∧ s.hostMem = [] ∧ s.devMem = [] ∧ s.outst = [] ∧ s.memoriesWf = true ∧ s.wrapperOk ∧
  (∀ i, (s.ctx i).state = .free ∧ (s.ctx i).image = none ∧ (s.ctx i).slice = none ∧ (s.ctx i).seedReg = 0) ∧
  (∀ p, (s.pit p).mask = 0 ∧ (s.pit p).state = 0) ∧
  (∀ c, (s.core c).seq.mode = .halt ∧ (s.core c).seq.inst = none ∧ (∀ r, (s.core c).seq.sr r = 0) ∧ (s.core c).bankOn = 0 ∧
    (∀ u, (s.core c).queue u = [])) ∧
  (∀ p, (s.port p).state = 0 ∧ (s.port p).en = false) ∧
  s.bel.en = false ∧ s.bel.count = 0 ∧ s.bel.periodReg = 1000000 ∧ s.cfg.stage = 0 ∧ s.cfg.done = false ∧ s.hst.en = false ∧ s.trc.en = false ∧
  s.errs.fatal = false ∧ s.dbg.stopped = false ∧ s.mkt.tasks = [] ∧ s.mkt.matching = []
end

