-- ==== Sys2Proof/Laws/Memory.lean ====
section
/-! SUPPORT. Sys2Proof/Laws/Memory.lean: every memory operation keeps the canonical form, and what a read gives after it. -/

namespace Sys2Proof.Machine

theorem wfFrom_mono : ∀ (m : Memory) (a b : Nat), a ≤ b → Memory.wfFrom b m = true → Memory.wfFrom a m = true
  | [], _, _, _, _ => rfl
  | (k, v) :: t, a, b, hab, h => by
    simp only [Memory.wfFrom, Bool.and_eq_true, decide_eq_true_eq] at h ⊢
    exact ⟨⟨Nat.le_trans hab h.1.1, h.1.2⟩, h.2⟩

/-- Nothing is listed below the lower bound. -/
theorem read_below : ∀ (m : Memory) (lo a : Nat), Memory.wfFrom lo m = true → a < lo → m.read a = Memory.blank
  | [], _, _, _, _ => rfl
  | (k, v) :: t, lo, a, h, ha => by
    simp only [Memory.wfFrom, Bool.and_eq_true, decide_eq_true_eq] at h
    have h1 : k ≠ a := by omega
    have h2 : a < k := by omega
    simp [Memory.read, h1, h2]

theorem wfFrom_write : ∀ (m : Memory) (lo a : Nat) (v : Byte), lo ≤ a → Memory.wfFrom lo m = true →
    Memory.wfFrom lo (m.write a v) = true
  | [], lo, a, v, ha, _ => by
    unfold Memory.write; split <;> simp_all [Memory.wfFrom]
  | (k, b) :: t, lo, a, v, ha, h => by
    have h0 := h
    simp only [Memory.wfFrom, Bool.and_eq_true, decide_eq_true_eq] at h
    obtain ⟨⟨h1, h2⟩, h3⟩ := h
    simp only [Memory.write]
    split
    · split
      · exact wfFrom_mono t lo (k + 1) (by omega) h3
      · rename_i hv
        simp [Memory.wfFrom, h1, h3, hv]
    · split
      · split
        · exact h0
        · rename_i hv
          have : a + 1 ≤ k := by omega
          simp [Memory.wfFrom, ha, h2, h3, hv, this]
      · have := wfFrom_write t (k + 1) a v (by omega) h3
        simp [Memory.wfFrom, h1, h2, this]

/-- A write keeps the canonical form. -/
theorem wf_write (m : Memory) (a : Nat) (v : Byte) (h : m.wf = true) : (m.write a v).wf = true :=
  wfFrom_write m 0 a v (Nat.zero_le a) h

theorem read_write_from : ∀ (m : Memory) (lo a p : Nat) (v : Byte), Memory.wfFrom lo m = true →
    (m.write a v).read p = if p = a then v else m.read p
  | [], lo, a, p, v, _ => by
    unfold Memory.write
    split
    · simp_all [Memory.read]
    · by_cases e : p = a
      · simp [Memory.read, e]
      · simp [Memory.read, e, Ne.symm e]
  | (k, b) :: t, lo, a, p, v, h => by
    simp only [Memory.wfFrom, Bool.and_eq_true, decide_eq_true_eq] at h
    obtain ⟨⟨h1, h2⟩, h3⟩ := h
    simp only [Memory.write]
    split
    · rename_i hk
      split
      · rename_i hv
        by_cases e : p = a
        · simp [e, hv, read_below t (k + 1) a h3 (by omega)]
        · by_cases g : p < k
          · simp [e, Memory.read, show k ≠ p by omega, g, read_below t (k + 1) p h3 (by omega)]
          · simp [e, Memory.read, show k ≠ p by omega, g]
      · by_cases e : p = a
        · simp [Memory.read, hk, e]
        · simp [Memory.read, show k ≠ p by omega, e]
    · rename_i hk
      split
      · rename_i hlt
        split
        · rename_i hv
          by_cases e : p = a
          · simp [Memory.read, e, hk, hlt, hv]
          · simp [e]
        · by_cases e : p = a
          · simp [Memory.read, e]
          · by_cases g : p < a
            · simp [Memory.read, e, Ne.symm e, g, show k ≠ p by omega, show p < k by omega]
            · simp [Memory.read, e, Ne.symm e, g]
      · rename_i hlt
        have ih := read_write_from t (k + 1) a p v h3
        by_cases e : p = a
        · simp [Memory.read, e, hk, hlt, by simpa [e] using ih]
        · simp only [Memory.read, ih, e, if_false]

/-- A read after a write: the byte written there, every other byte as before. -/
theorem read_write (m : Memory) (a p : Nat) (v : Byte) (h : m.wf = true) : (m.write a v).read p = if p = a then v else m.read p :=
  read_write_from m 0 a p v h

/-- Writing bytes keeps the canonical form. -/
theorem wf_writeBytes : ∀ (l : List Byte) (m : Memory) (a : Nat), m.wf = true → (m.writeBytes a l).wf = true
  | [], _, _, h => h
  | b :: t, m, a, h => wf_writeBytes t (m.write a b) (a + 1) (wf_write m a b h)

/-- A read after bytes were written from an address on. -/
theorem read_writeBytes : ∀ (l : List Byte) (m : Memory) (a p : Nat), m.wf = true →
    (m.writeBytes a l).read p = if a ≤ p ∧ p < a + l.length then l.getD (p - a) 0 else m.read p
  | [], m, a, p, _ => by simp [Memory.writeBytes, show ¬ (a ≤ p ∧ p < a) by omega]
  | b :: t, m, a, p, h => by
    rw [Memory.writeBytes, read_writeBytes t (m.write a b) (a + 1) p (wf_write m a b h), read_write m a p b h]
    simp only [List.length_cons]
    by_cases e : p = a
    · subst e; simp [show ¬ (p + 1 ≤ p ∧ p < p + 1 + t.length) by omega]
    · by_cases g : a + 1 ≤ p ∧ p < a + 1 + t.length
      · have : p - a = (p - (a + 1)) + 1 := by omega
        simp only [g, and_self, if_true, show a ≤ p ∧ p < a + (t.length + 1) by omega, this, List.getD_cons_succ]
      · simp only [g, if_false, e, show ¬ (a ≤ p ∧ p < a + (t.length + 1)) by omega]

@[simp] theorem readBytes_length (m : Memory) : ∀ (n a : Nat), (m.readBytes a n).length = n
  | 0, _ => rfl
  | n + 1, a => by simp [Memory.readBytes, readBytes_length m n (a + 1)]

/-- Byte i of n bytes read. -/
theorem readBytes_getD (m : Memory) : ∀ (n a i : Nat), i < n → (m.readBytes a n).getD i 0 = m.read (a + i)
  | n + 1, a, 0, _ => by simp [Memory.readBytes]
  | n + 1, a, i + 1, h => by
    rw [Memory.readBytes, List.getD_cons_succ, readBytes_getD m n (a + 1) i (by omega)]
    congr 1; omega

theorem wfFrom_filter (q : Host.Cell → Bool) : ∀ (m : Memory) (lo : Nat), Memory.wfFrom lo m = true → Memory.wfFrom lo (m.filter q) = true
  | [], _, _ => rfl
  | (k, v) :: t, lo, h => by
    simp only [Memory.wfFrom, Bool.and_eq_true, decide_eq_true_eq] at h
    obtain ⟨⟨h1, h2⟩, h3⟩ := h
    have ih := wfFrom_filter q t (k + 1) h3
    rw [List.filter_cons]
    split
    · simp [Memory.wfFrom, h1, h2, ih]
    · exact wfFrom_mono _ lo (k + 1) (by omega) ih

/-- Clearing keeps the canonical form. -/
theorem wf_clear (m : Memory) (a n : Nat) (h : m.wf = true) : (m.clear a n).wf = true := wfFrom_filter _ m 0 h

theorem read_clear_from (a n p : Nat) : ∀ (m : Memory) (lo : Nat), Memory.wfFrom lo m = true →
    (m.clear a n).read p = if a ≤ p ∧ p < a + n then Memory.blank else m.read p
  | [], _, _ => by simp [Memory.clear, Memory.read]
  | (k, v) :: t, lo, h => by
    simp only [Memory.wfFrom, Bool.and_eq_true, decide_eq_true_eq] at h
    obtain ⟨⟨h1, h2⟩, h3⟩ := h
    have ih := read_clear_from a n p t (k + 1) h3
    unfold Memory.clear at ih ⊢
    rw [List.filter_cons]
    by_cases g : (decide (k < a) || decide (a + n ≤ k)) = true
    · simp only [g, if_true, Memory.read, ih]
      simp only [Bool.or_eq_true, decide_eq_true_eq] at g
      by_cases e : k = p
      · simp [e, show ¬ (a ≤ p ∧ p < a + n) by omega]
      · by_cases l : p < k <;> simp [e, l]
    · simp only [g, Bool.false_eq_true, if_false, ih]
      simp only [Bool.or_eq_true, decide_eq_true_eq, not_or] at g
      by_cases w : a ≤ p ∧ p < a + n
      · simp [w]
      · have e : k ≠ p := by omega
        simp only [w, if_false, Memory.read, e]
        by_cases l : p < k
        · simp [l, read_below t (k + 1) p h3 (by omega)]
        · simp [l]

/-- A read after a range was cleared: zero inside it, every other byte as before. -/
theorem read_clear (m : Memory) (a n p : Nat) (h : m.wf = true) :
    (m.clear a n).read p = if a ≤ p ∧ p < a + n then Memory.blank else m.read p := read_clear_from a n p m 0 h

end Sys2Proof.Machine
end

