-- ==== Sys2Proof/WellFormed.lean ====
section
/-! DEFINITION. Sys2Proof/WellFormed.lean: which commands are well formed: the lengths of the byte strings and lists
that an operand carries. Every other bound stands in the operand's type. -/

namespace Sys2Proof

/-- A beat: 16 words with 16 check words at a memory port, 8 words and none at the host port (R402, R404), at an
address of the beat's size. -/
def Beat.wellFormed (b : Beat) : Bool :=
  if b.port = 16 then b.data.length == 8 && b.chk.isEmpty && b.addr.toNat % 128 == 0
  else b.data.length == 16 && b.chk.length == 16 && b.addr.toNat % 256 == 0

/-- A group: 16 slots (R265). -/
def Group.wellFormed (g : Group) : Bool := g.slots.length == 16

/-- What a receiver gets: a group, at most nine lanes' counts (R262). -/
def RxGroup.wellFormed (r : RxGroup) : Bool := r.g.wellFormed && r.place < 5140 && r.errors.length ≤ 2 && r.errors.all fun l => l.all fun e => decide (e.1 < 544)

/-- The well-formed commands. -/
def Instr.wellFormed : Instr → Bool
  | .memReadBeat b => b.wellFormed
  | .groupReceive _ rx => rx.wellFormed
  | .fuseRead bytes => bytes.length == 2048
  | .thermalReading raw => raw.length == 16
  | .selftest _ crcs => crcs.length == 130
  | .queueStale q => q.kind.toNat ≤ 8
  | .dispatchSelect (some q) => q.kind.toNat ≤ 8
  | .scrub (.scratch _ _ w) _ => w.toNat < 32768
  | _ => true

end Sys2Proof
end

