-- ==== Sys2Proof/Laws/PerInstr.lean ====
section
/-! SUPPORT. Sys2Proof/Laws/PerInstr.lean: for every constructor: a command that is a sequencer instruction is well formed with every
operand, and its word never has opcode 0, so that instruction memory of zeros holds no instruction (R218, Table 17.6). -/

namespace Sys2Proof

theorem opcodeOf_seqWord (op : BitVec 6) (w : BitVec 26) : opcodeOf (seqWord op w) = op := by
  unfold opcodeOf seqWord; exact BitVec.extractLsb'_append_eq_left

theorem operandsOf_seqWord (op : BitVec 6) (w : BitVec 26) : operandsOf (seqWord op w) = w := by
  unfold operandsOf seqWord; exact BitVec.extractLsb'_append_eq_right

theorem seqWord_opcode_operands (v : W32) : seqWord (opcodeOf v) (operandsOf v) = v := by
  apply BitVec.eq_of_getLsbD_eq
  intro i hi
  show (BitVec.extractLsb' 26 6 v ++ BitVec.extractLsb' 0 26 v : BitVec (6 + 26)).getLsbD i = _
  rw [BitVec.getLsbD_append]
  by_cases h : i < 26
  · simp [h]
  · simp [h, show i - 26 < 6 by omega, show 26 + (i - 26) = i by omega]

namespace Laws.SeqWord

/-- What is stated of a command. -/
def Statement (i : Instr) : Prop := ∀ p, encodeSeq i = some p → i.wellFormed = true ∧ opcodeOf p.2 ≠ 0

theorem of_none {i : Instr} (h : encodeSeq i = none) : Statement i := by intro p hp; rw [h] at hp; cases hp

theorem of_word {i : Instr} {c : PCore} {op : BitVec 6} {w : BitVec 26} (h : encodeSeq i = some (c, seqWord op w))
    (hw : i.wellFormed = true) (h0 : op ≠ 0) : Statement i := by
  intro p hp
  rw [h] at hp
  cases hp
  exact ⟨hw, by rw [opcodeOf_seqWord]; exact h0⟩

theorem alu (core : PCore) (w : BitVec 26) : Statement (.alu core w) := of_word rfl rfl (by decide)
theorem addi (core : PCore) (w : BitVec 26) : Statement (.addi core w) := of_word rfl rfl (by decide)
theorem andi (core : PCore) (w : BitVec 26) : Statement (.andi core w) := of_word rfl rfl (by decide)
theorem ori (core : PCore) (w : BitVec 26) : Statement (.ori core w) := of_word rfl rfl (by decide)
theorem shi (core : PCore) (w : BitVec 26) : Statement (.shi core w) := of_word rfl rfl (by decide)
theorem movi (core : PCore) (w : BitVec 26) : Statement (.movi core w) := of_word rfl rfl (by decide)
theorem movk (core : PCore) (w : BitVec 26) : Statement (.movk core w) := of_word rfl rfl (by decide)
theorem beq (core : PCore) (w : BitVec 26) : Statement (.beq core w) := of_word rfl rfl (by decide)
theorem bne (core : PCore) (w : BitVec 26) : Statement (.bne core w) := of_word rfl rfl (by decide)
theorem blt (core : PCore) (w : BitVec 26) : Statement (.blt core w) := of_word rfl rfl (by decide)
theorem bge (core : PCore) (w : BitVec 26) : Statement (.bge core w) := of_word rfl rfl (by decide)
theorem bltu (core : PCore) (w : BitVec 26) : Statement (.bltu core w) := of_word rfl rfl (by decide)
theorem bgeu (core : PCore) (w : BitVec 26) : Statement (.bgeu core w) := of_word rfl rfl (by decide)
theorem jal (core : PCore) (w : BitVec 26) : Statement (.jal core w) := of_word rfl rfl (by decide)
theorem jr (core : PCore) (w : BitVec 26) : Statement (.jr core w) := of_word rfl rfl (by decide)
theorem sld (core : PCore) (w : BitVec 26) : Statement (.sld core w) := of_word rfl rfl (by decide)
theorem sst (core : PCore) (w : BitVec 26) : Statement (.sst core w) := of_word rfl rfl (by decide)
theorem gets (core : PCore) (w : BitVec 26) : Statement (.gets core w) := of_word rfl rfl (by decide)
theorem setp (core : PCore) (w : BitVec 26) : Statement (.setp core w) := of_word rfl rfl (by decide)
theorem aset (core : PCore) (w : BitVec 26) : Statement (.aset core w) := of_word rfl rfl (by decide)
theorem aget (core : PCore) (w : BitVec 26) : Statement (.aget core w) := of_word rfl rfl (by decide)
theorem aadd (core : PCore) (w : BitVec 26) : Statement (.aadd core w) := of_word rfl rfl (by decide)
theorem alen (core : PCore) (w : BitVec 26) : Statement (.alen core w) := of_word rfl rfl (by decide)
theorem ldw (core : PCore) (w : BitVec 26) : Statement (.ldw core w) := of_word rfl rfl (by decide)
theorem mmul (core : PCore) (w : BitVec 26) : Statement (.mmul core w) := of_word rfl rfl (by decide)
theorem psout (core : PCore) (w : BitVec 26) : Statement (.psout core w) := of_word rfl rfl (by decide)
theorem vop (core : PCore) (w : BitVec 26) : Statement (.vop core w) := of_word rfl rfl (by decide)
theorem vred (core : PCore) (w : BitVec 26) : Statement (.vred core w) := of_word rfl rfl (by decide)
theorem vrand (core : PCore) (w : BitVec 26) : Statement (.vrand core w) := of_word rfl rfl (by decide)
theorem tload (core : PCore) (w : BitVec 26) : Statement (.tload core w) := of_word rfl rfl (by decide)
theorem teval (core : PCore) (w : BitVec 26) : Statement (.teval core w) := of_word rfl rfl (by decide)
theorem move (core : PCore) (w : BitVec 26) : Statement (.move core w) := of_word rfl rfl (by decide)
theorem twld (core : PCore) (w : BitVec 26) : Statement (.twld core w) := of_word rfl rfl (by decide)
theorem stash (core : PCore) (w : BitVec 26) : Statement (.stash core w) := of_word rfl rfl (by decide)
theorem sload (core : PCore) (w : BitVec 26) : Statement (.sload core w) := of_word rfl rfl (by decide)
theorem squery (core : PCore) (w : BitVec 26) : Statement (.squery core w) := of_word rfl rfl (by decide)
theorem gacc (core : PCore) (w : BitVec 26) : Statement (.gacc core w) := of_word rfl rfl (by decide)
theorem gread (core : PCore) (w : BitVec 26) : Statement (.gread core w) := of_word rfl rfl (by decide)
theorem gxenc (core : PCore) (w : BitVec 26) : Statement (.gxenc core w) := of_word rfl rfl (by decide)
theorem send (core : PCore) (w : BitVec 26) : Statement (.send core w) := of_word rfl rfl (by decide)
theorem recv (core : PCore) (w : BitVec 26) : Statement (.recv core w) := of_word rfl rfl (by decide)
theorem rwrite (core : PCore) (w : BitVec 26) : Statement (.rwrite core w) := of_word rfl rfl (by decide)
theorem wopen (core : PCore) (w : BitVec 26) : Statement (.wopen core w) := of_word rfl rfl (by decide)
theorem wclose (core : PCore) (w : BitVec 26) : Statement (.wclose core w) := of_word rfl rfl (by decide)
theorem wait (core : PCore) (w : BitVec 26) : Statement (.wait core w) := of_word rfl rfl (by decide)
theorem brk (core : PCore) (w : BitVec 26) : Statement (.brk core w) := of_word rfl rfl (by decide)
theorem post (core : PCore) (w : BitVec 26) : Statement (.post core w) := of_word rfl rfl (by decide)
theorem done (core : PCore) (w : BitVec 26) : Statement (.done core w) := of_word rfl rfl (by decide)
theorem take (core : PCore) (w : BitVec 26) : Statement (.take core w) := of_word rfl rfl (by decide)
theorem commandStart (core : PCore) (u : StartOf) : Statement (.commandStart core u) := of_none rfl
theorem commandComplete (core : PCore) (u : CmdUnit) : Statement (.commandComplete core u) := of_none rfl
theorem orderedRelease (core : PCore) : Statement (.orderedRelease core) := of_none rfl
theorem fillNotice (core src : PCore) : Statement (.fillNotice core src) := of_none rfl
theorem arrival (upset : Bool) : Statement (.arrival upset) := of_none rfl
theorem postAccept (core : PCore) : Statement (.postAccept core) := of_none rfl
theorem retirement (core : PCore) : Statement (.retirement core) := of_none rfl
theorem dispatchSelect (upset : Option QueueRef) : Statement (.dispatchSelect upset) := of_none rfl
theorem preemptAck (core : PCore) : Statement (.preemptAck core) := of_none rfl
theorem kernelEntry (core : PCore) : Statement (.kernelEntry core) := of_none rfl
theorem bell : Statement .bell := of_none rfl
theorem sleepConfirm : Statement .sleepConfirm := of_none rfl
theorem admission (p : Pitch) : Statement (.admission p) := of_none rfl
theorem imageInstall (s : Slot) : Statement (.imageInstall s) := of_none rfl
theorem bankPowerUpDone (core : PCore) (bank : Fin 24) : Statement (.bankPowerUpDone core bank) := of_none rfl
theorem submitSlice (r : Ring) : Statement (.submitSlice r) := of_none rfl
theorem loadImage (r : Ring) : Statement (.loadImage r) := of_none rfl
theorem loadFabricImage (r : Ring) : Statement (.loadFabricImage r) := of_none rfl
theorem fabricInstallPass (p : Pitch) : Statement (.fabricInstallPass p) := of_none rfl
theorem fabricInstallCheck (p : Pitch) : Statement (.fabricInstallCheck p) := of_none rfl
theorem bindTensor (r : Ring) : Statement (.bindTensor r) := of_none rfl
theorem copyTensor (r : Ring) : Statement (.copyTensor r) := of_none rfl
theorem unbindTensor (r : Ring) : Statement (.unbindTensor r) := of_none rfl
theorem fence (r : Ring) : Statement (.fence r) := of_none rfl
theorem kill (r : Ring) : Statement (.kill r) := of_none rfl
theorem killResolution (r : Ring) : Statement (.killResolution r) := of_none rfl
theorem evict (r : Ring) : Statement (.evict r) := of_none rfl
theorem readCounters (r : Ring) : Statement (.readCounters r) := of_none rfl
theorem openContext (r : Ring) : Statement (.openContext r) := of_none rfl
theorem updatePolicy (r : Ring) : Statement (.updatePolicy r) := of_none rfl
theorem setPolicyResume (r : Ring) : Statement (.setPolicyResume r) := of_none rfl
theorem closeContext (r : Ring) : Statement (.closeContext r) := of_none rfl
theorem swapIn (src : SwapSrc) : Statement (.swapIn src) := of_none rfl
theorem brkArm (r : Ring) : Statement (.brkArm r) := of_none rfl
theorem brkDisarm (r : Ring) : Statement (.brkDisarm r) := of_none rfl
theorem debugResume (r : Ring) : Statement (.debugResume r) := of_none rfl
theorem debugRead (r : Ring) : Statement (.debugRead r) := of_none rfl
theorem stopAtBell (src : ReqSrc) : Statement (.stopAtBell src) := of_none rfl
theorem resumeBell (src : ReqSrc) : Statement (.resumeBell src) := of_none rfl
theorem stopNow (src : ReqSrc) : Statement (.stopNow src) := of_none rfl
theorem stopNowTaken : Statement .stopNowTaken := of_none rfl
theorem resumeNow (src : ReqSrc) : Statement (.resumeNow src) := of_none rfl
theorem trigger (src : ReqSrc) : Statement (.trigger src) := of_none rfl
theorem breakpointHit (core : PCore) : Statement (.breakpointHit core) := of_none rfl
theorem breakpointHalt (core : PCore) : Statement (.breakpointHalt core) := of_none rfl
theorem wake (v : W32) : Statement (.wake v) := of_none rfl
theorem adminResume (v : W32) : Statement (.adminResume v) := of_none rfl
theorem bellEnable (v : W32) : Statement (.bellEnable v) := of_none rfl
theorem belPeriodWrite (v : W32) : Statement (.belPeriodWrite v) := of_none rfl
theorem ctxQuotaWrite (v : W32) : Statement (.ctxQuotaWrite v) := of_none rfl
theorem applyMask (v : W32) : Statement (.applyMask v) := of_none rfl
theorem regulatorWrite (off : W16) (v : W32) : Statement (.regulatorWrite off v) := of_none rfl
theorem bankForceWrite (v : W32) : Statement (.bankForceWrite v) := of_none rfl
theorem detWrite (off : W16) (v : W32) : Statement (.detWrite off v) := of_none rfl
theorem resetBlock (v : W32) : Statement (.resetBlock v) := of_none rfl
theorem resetPitch (v : W32) : Statement (.resetPitch v) := of_none rfl
theorem resetContext (v : W32) : Statement (.resetContext v) := of_none rfl
theorem retrain (v : W32) : Statement (.retrain v) := of_none rfl
theorem linkEnable (v : W32) : Statement (.linkEnable v) := of_none rfl
theorem clearCounters (v : W32) : Statement (.clearCounters v) := of_none rfl
theorem traceControlWrite (v : W32) : Statement (.traceControlWrite v) := of_none rfl
theorem forceB (v : W32) : Statement (.forceB v) := of_none rfl
theorem throttleRequest (off : W16) (v : W32) : Statement (.throttleRequest off v) := of_none rfl
theorem push (v : W32) : Statement (.push v) := of_none rfl
theorem pushDone (v : W32) : Statement (.pushDone v) := of_none rfl
theorem rmapPush (v : W32) : Statement (.rmapPush v) := of_none rfl
theorem rmapDone (v : W32) : Statement (.rmapDone v) := of_none rfl
theorem linkChipWrite (v : W32) : Statement (.linkChipWrite v) := of_none rfl
theorem selectorWrite (off : W16) (v : W32) : Statement (.selectorWrite off v) := of_none rfl
theorem pairLoRead (off : W16) : Statement (.pairLoRead off) := of_none rfl
theorem registerWrite (off : W16) (v : W32) : Statement (.registerWrite off v) := of_none rfl
theorem bellMarker (port : LPort) : Statement (.bellMarker port) := of_none rfl
theorem barrier (port : LPort) : Statement (.barrier port) := of_none rfl
theorem barrierSend : Statement .barrierSend := of_none rfl
theorem barrierRepeat : Statement .barrierRepeat := of_none rfl
theorem markerMissed : Statement .markerMissed := of_none rfl
theorem barrierWait : Statement .barrierWait := of_none rfl
theorem zreadyTimeout : Statement .zreadyTimeout := of_none rfl
theorem zreadyChange (level : Bool) : Statement (.zreadyChange level) := of_none rfl
theorem vote (port : LPort) : Statement (.vote port) := of_none rfl
theorem decision (port : LPort) : Statement (.decision port) := of_none rfl
theorem commitInDoubt (s : Slot) : Statement (.commitInDoubt s) := of_none rfl
theorem groupTransmit (port : LPort) (frac : BitVec 4) : Statement (.groupTransmit port frac) := of_none rfl
theorem groupReceive (port : LPort) (rx : RxGroup) : Statement (.groupReceive port rx) := of_none rfl
theorem replayTimeout (port : LPort) : Statement (.replayTimeout port) := of_none rfl
theorem trainingAdvance (port : LPort) : Statement (.trainingAdvance port) := of_none rfl
theorem trainingTimeout (port : LPort) : Statement (.trainingTimeout port) := of_none rfl
theorem trainingRetry (port : LPort) : Statement (.trainingRetry port) := of_none rfl
theorem rxlockChange (port : LPort) (lane : Fin 9) (level : Bool) : Statement (.rxlockChange port lane level) := of_none rfl
theorem laneSwap (port : LPort) : Statement (.laneSwap port) := of_none rfl
theorem laneSwapEffect (port : LPort) (tx : Bool) : Statement (.laneSwapEffect port tx) := of_none rfl
theorem tsyncSend (port : LPort) : Statement (.tsyncSend port) := of_none rfl
theorem tsyncReq (port : LPort) : Statement (.tsyncReq port) := of_none rfl
theorem tsyncRsp (port : LPort) : Statement (.tsyncRsp port) := of_none rfl
theorem cut (port : LPort) : Statement (.cut port) := of_none rfl
theorem request (core : PCore) : Statement (.request core) := of_none rfl
theorem grant (core : PCore) : Statement (.grant core) := of_none rfl
theorem nack (core : PCore) : Statement (.nack core) := of_none rfl
theorem message (core : PCore) : Statement (.message core) := of_none rfl
theorem windowWrite (core : PCore) : Statement (.windowWrite core) := of_none rfl
theorem withdraw (core : PCore) : Statement (.withdraw core) := of_none rfl
theorem meshTimeout (core : PCore) (origin : W16) (s : Slot) : Statement (.meshTimeout core origin s) := of_none rfl
theorem memReadBeat (b : Beat) : Statement (.memReadBeat b) := of_none rfl
theorem memWriteAck (port : Fin 17) (tag : BitVec 8) (err : BitVec 2) : Statement (.memWriteAck port tag err) := of_none rfl
theorem scrub (loc : RamLoc) (w : BitVec 144) : Statement (.scrub loc w) := of_none rfl
theorem coalesceWindowClose : Statement .coalesceWindowClose := of_none rfl
theorem selftest (core : PCore) (crcs : List W32) : Statement (.selftest core crcs) := of_none rfl
theorem sweep (core : PCore) (bank : SweepOf) : Statement (.sweep core bank) := of_none rfl
theorem coreCopy (core : PCore) : Statement (.coreCopy core) := of_none rfl
theorem queueStale (q : QueueRef) : Statement (.queueStale q) := of_none rfl
theorem coldReset (st : Straps) : Statement (.coldReset st) := of_none rfl
theorem warmReset : Statement .warmReset := of_none rfl
theorem fuseRead (bytes : List Byte) : Statement (.fuseRead bytes) := of_none rfl
theorem personalityLoad (nv : Option (List Byte)) : Statement (.personalityLoad nv) := of_none rfl
theorem rmapWait : Statement .rmapWait := of_none rfl
theorem supplyStage : Statement .supplyStage := of_none rfl
theorem startupOrder : Statement .startupOrder := of_none rfl
theorem startupDone : Statement .startupDone := of_none rfl
theorem supplyLost (mem : Bool) : Statement (.supplyLost mem) := of_none rfl
theorem supplyRestored : Statement .supplyRestored := of_none rfl
theorem ctlSwitchover : Statement .ctlSwitchover := of_none rfl
theorem ctlReturn : Statement .ctlReturn := of_none rfl
theorem ctlBackupLow : Statement .ctlBackupLow := of_none rfl
theorem loopCheck (l : Loop) (ok : Bool) : Statement (.loopCheck l ok) := of_none rfl
theorem clockTransitionEnd : Statement .clockTransitionEnd := of_none rfl
theorem aryVok : Statement .aryVok := of_none rfl
theorem vidTimeout : Statement .vidTimeout := of_none rfl
theorem emergencyRequest (src : EmergSrc) (raised : Bool) : Statement (.emergencyRequest src raised) := of_none rfl
theorem thermalReading (raw : List (BitVec 16)) : Statement (.thermalReading raw) := of_none rfl
theorem tracePacketClose : Statement .tracePacketClose := of_none rfl
theorem pcsample (core : PCore) : Statement (.pcsample core) := of_none rfl
theorem traceSync : Statement .traceSync := of_none rfl
theorem traceBeat : Statement .traceBeat := of_none rfl
theorem loopsLocked (e : LockEvent) : Statement (.loopsLocked e) := of_none rfl
theorem waitTimeReached (core : PCore) : Statement (.waitTimeReached core) := of_none rfl
theorem pushTimeout : Statement .pushTimeout := of_none rfl
theorem rmapWaitTimeout : Statement .rmapWaitTimeout := of_none rfl
theorem updateWr (u : WrUpdate) : Statement (.updateWr u) := of_none rfl
theorem mbistDone (res : BitVec 80) : Statement (.mbistDone res) := of_none rfl

end Laws.SeqWord

end Sys2Proof
end

