-- ==== Sys2Proof/Laws/State.lean ====
section
/-! SUPPORT. Sys2Proof/Laws/State.lean: what each update of one unit of the state does to every field, and what the
accessors of the units read after it. -/

namespace Sys2Proof.Machine

variable (s : State)

/-! ### Tables -/

@[simp] theorem tab_get_put {α : Type} {n : Nat} (t : Tab α n) (i j : Fin n) (x : α) :
    (t.put i x).get j = if j = i then x else t.get j := by
  have h : (t.put i x).get j = (Vector.set t i.val x i.isLt)[j.val] := rfl
  rw [h, Vector.getElem_set]
  by_cases e : j = i
  · simp [e]
  · have : ¬ i.val = j.val := fun h => e (Fin.ext h.symm)
    simp [e, this]; rfl

theorem tab_get_fill {α : Type} (n : Nat) (x : α) (i : Fin n) : (Tab.fill n x).get i = x := by
  have h : (Tab.fill n x).get i = (Vector.replicate n x)[i.val] := rfl
  rw [h]; simp

@[simp] theorem tab_put_get {α : Type} {n : Nat} (t : Tab α n) (i : Fin n) : t.put i (t.get i) = t :=
  Vector.set_getElem_self i.isLt

@[simp] theorem tab_put_put {α : Type} {n : Nat} (t : Tab α n) (i : Fin n) (x y : α) : (t.put i x).put i y = t.put i y := by
  simp [Tab.put]

/-! ### What an update of one unit leaves as it is -/

@[simp] theorem modCtx_pending (i : Slot) (f : Ctx → Ctx) : (s.modCtx i f).pending = s.pending := rfl
@[simp] theorem modCtx_free (i : Slot) (f : Ctx → Ctx) : (s.modCtx i f).free = s.free := rfl
@[simp] theorem modCtx_clk (i : Slot) (f : Ctx → Ctx) : (s.modCtx i f).clk = s.clk := rfl
@[simp] theorem modCtx_mgmt (i : Slot) (f : Ctx → Ctx) : (s.modCtx i f).mgmt = s.mgmt := rfl
@[simp] theorem modCtx_cfg (i : Slot) (f : Ctx → Ctx) : (s.modCtx i f).cfg = s.cfg := rfl
@[simp] theorem modCtx_straps (i : Slot) (f : Ctx → Ctx) : (s.modCtx i f).straps = s.straps := rfl
@[simp] theorem modCtx_fuse (i : Slot) (f : Ctx → Ctx) : (s.modCtx i f).fuse = s.fuse := rfl
@[simp] theorem modCtx_wrap (i : Slot) (f : Ctx → Ctx) : (s.modCtx i f).wrap = s.wrap := rfl
@[simp] theorem modCtx_pwr (i : Slot) (f : Ctx → Ctx) : (s.modCtx i f).pwr = s.pwr := rfl
@[simp] theorem modCtx_hst (i : Slot) (f : Ctx → Ctx) : (s.modCtx i f).hst = s.hst := rfl
@[simp] theorem modCtx_bel (i : Slot) (f : Ctx → Ctx) : (s.modCtx i f).bel = s.bel := rfl
@[simp] theorem modCtx_mkt (i : Slot) (f : Ctx → Ctx) : (s.modCtx i f).mkt = s.mkt := rfl
@[simp] theorem modCtx_pits (i : Slot) (f : Ctx → Ctx) : (s.modCtx i f).pits = s.pits := rfl
@[simp] theorem modCtx_cores (i : Slot) (f : Ctx → Ctx) : (s.modCtx i f).cores = s.cores := rfl
@[simp] theorem modCtx_ports (i : Slot) (f : Ctx → Ctx) : (s.modCtx i f).ports = s.ports := rfl
@[simp] theorem modCtx_ev (i : Slot) (f : Ctx → Ctx) : (s.modCtx i f).ev = s.ev := rfl
@[simp] theorem modCtx_errs (i : Slot) (f : Ctx → Ctx) : (s.modCtx i f).errs = s.errs := rfl
@[simp] theorem modCtx_dbg (i : Slot) (f : Ctx → Ctx) : (s.modCtx i f).dbg = s.dbg := rfl
@[simp] theorem modCtx_cnt (i : Slot) (f : Ctx → Ctx) : (s.modCtx i f).cnt = s.cnt := rfl
@[simp] theorem modCtx_trc (i : Slot) (f : Ctx → Ctx) : (s.modCtx i f).trc = s.trc := rfl
@[simp] theorem modCtx_streams (i : Slot) (f : Ctx → Ctx) : (s.modCtx i f).streams = s.streams := rfl
@[simp] theorem modCtx_hostMem (i : Slot) (f : Ctx → Ctx) : (s.modCtx i f).hostMem = s.hostMem := rfl
@[simp] theorem modCtx_devMem (i : Slot) (f : Ctx → Ctx) : (s.modCtx i f).devMem = s.devMem := rfl
@[simp] theorem modCtx_outst (i : Slot) (f : Ctx → Ctx) : (s.modCtx i f).outst = s.outst := rfl
@[simp] theorem modCtx_lastRead (i : Slot) (f : Ctx → Ctx) : (s.modCtx i f).lastRead = s.lastRead := rfl
@[simp] theorem modCtx_core_same (i : Slot) (f : Ctx → Ctx) (z : PCore) : (s.modCtx i f).core z = s.core z := rfl
@[simp] theorem modCtx_pit_same (i : Slot) (f : Ctx → Ctx) (z : Pitch) : (s.modCtx i f).pit z = s.pit z := rfl
@[simp] theorem modCtx_port_same (i : Slot) (f : Ctx → Ctx) (z : LPort) : (s.modCtx i f).port z = s.port z := rfl

@[simp] theorem modCore_pending (c : PCore) (f : Core → Core) : (s.modCore c f).pending = s.pending := rfl
@[simp] theorem modCore_free (c : PCore) (f : Core → Core) : (s.modCore c f).free = s.free := rfl
@[simp] theorem modCore_clk (c : PCore) (f : Core → Core) : (s.modCore c f).clk = s.clk := rfl
@[simp] theorem modCore_mgmt (c : PCore) (f : Core → Core) : (s.modCore c f).mgmt = s.mgmt := rfl
@[simp] theorem modCore_cfg (c : PCore) (f : Core → Core) : (s.modCore c f).cfg = s.cfg := rfl
@[simp] theorem modCore_straps (c : PCore) (f : Core → Core) : (s.modCore c f).straps = s.straps := rfl
@[simp] theorem modCore_fuse (c : PCore) (f : Core → Core) : (s.modCore c f).fuse = s.fuse := rfl
@[simp] theorem modCore_wrap (c : PCore) (f : Core → Core) : (s.modCore c f).wrap = s.wrap := rfl
@[simp] theorem modCore_pwr (c : PCore) (f : Core → Core) : (s.modCore c f).pwr = s.pwr := rfl
@[simp] theorem modCore_hst (c : PCore) (f : Core → Core) : (s.modCore c f).hst = s.hst := rfl
@[simp] theorem modCore_bel (c : PCore) (f : Core → Core) : (s.modCore c f).bel = s.bel := rfl
@[simp] theorem modCore_mkt (c : PCore) (f : Core → Core) : (s.modCore c f).mkt = s.mkt := rfl
@[simp] theorem modCore_pits (c : PCore) (f : Core → Core) : (s.modCore c f).pits = s.pits := rfl
@[simp] theorem modCore_ctxs (c : PCore) (f : Core → Core) : (s.modCore c f).ctxs = s.ctxs := rfl
@[simp] theorem modCore_ports (c : PCore) (f : Core → Core) : (s.modCore c f).ports = s.ports := rfl
@[simp] theorem modCore_ev (c : PCore) (f : Core → Core) : (s.modCore c f).ev = s.ev := rfl
@[simp] theorem modCore_errs (c : PCore) (f : Core → Core) : (s.modCore c f).errs = s.errs := rfl
@[simp] theorem modCore_dbg (c : PCore) (f : Core → Core) : (s.modCore c f).dbg = s.dbg := rfl
@[simp] theorem modCore_cnt (c : PCore) (f : Core → Core) : (s.modCore c f).cnt = s.cnt := rfl
@[simp] theorem modCore_trc (c : PCore) (f : Core → Core) : (s.modCore c f).trc = s.trc := rfl
@[simp] theorem modCore_streams (c : PCore) (f : Core → Core) : (s.modCore c f).streams = s.streams := rfl
@[simp] theorem modCore_hostMem (c : PCore) (f : Core → Core) : (s.modCore c f).hostMem = s.hostMem := rfl
@[simp] theorem modCore_devMem (c : PCore) (f : Core → Core) : (s.modCore c f).devMem = s.devMem := rfl
@[simp] theorem modCore_outst (c : PCore) (f : Core → Core) : (s.modCore c f).outst = s.outst := rfl
@[simp] theorem modCore_lastRead (c : PCore) (f : Core → Core) : (s.modCore c f).lastRead = s.lastRead := rfl
@[simp] theorem modCore_ctx_same (c : PCore) (f : Core → Core) (z : Slot) : (s.modCore c f).ctx z = s.ctx z := rfl
@[simp] theorem modCore_pit_same (c : PCore) (f : Core → Core) (z : Pitch) : (s.modCore c f).pit z = s.pit z := rfl
@[simp] theorem modCore_port_same (c : PCore) (f : Core → Core) (z : LPort) : (s.modCore c f).port z = s.port z := rfl

@[simp] theorem modSeq_pending (c : PCore) (f : Seq → Seq) : (s.modSeq c f).pending = s.pending := rfl
@[simp] theorem modSeq_free (c : PCore) (f : Seq → Seq) : (s.modSeq c f).free = s.free := rfl
@[simp] theorem modSeq_clk (c : PCore) (f : Seq → Seq) : (s.modSeq c f).clk = s.clk := rfl
@[simp] theorem modSeq_mgmt (c : PCore) (f : Seq → Seq) : (s.modSeq c f).mgmt = s.mgmt := rfl
@[simp] theorem modSeq_cfg (c : PCore) (f : Seq → Seq) : (s.modSeq c f).cfg = s.cfg := rfl
@[simp] theorem modSeq_straps (c : PCore) (f : Seq → Seq) : (s.modSeq c f).straps = s.straps := rfl
@[simp] theorem modSeq_fuse (c : PCore) (f : Seq → Seq) : (s.modSeq c f).fuse = s.fuse := rfl
@[simp] theorem modSeq_wrap (c : PCore) (f : Seq → Seq) : (s.modSeq c f).wrap = s.wrap := rfl
@[simp] theorem modSeq_pwr (c : PCore) (f : Seq → Seq) : (s.modSeq c f).pwr = s.pwr := rfl
@[simp] theorem modSeq_hst (c : PCore) (f : Seq → Seq) : (s.modSeq c f).hst = s.hst := rfl
@[simp] theorem modSeq_bel (c : PCore) (f : Seq → Seq) : (s.modSeq c f).bel = s.bel := rfl
@[simp] theorem modSeq_mkt (c : PCore) (f : Seq → Seq) : (s.modSeq c f).mkt = s.mkt := rfl
@[simp] theorem modSeq_pits (c : PCore) (f : Seq → Seq) : (s.modSeq c f).pits = s.pits := rfl
@[simp] theorem modSeq_ctxs (c : PCore) (f : Seq → Seq) : (s.modSeq c f).ctxs = s.ctxs := rfl
@[simp] theorem modSeq_ports (c : PCore) (f : Seq → Seq) : (s.modSeq c f).ports = s.ports := rfl
@[simp] theorem modSeq_ev (c : PCore) (f : Seq → Seq) : (s.modSeq c f).ev = s.ev := rfl
@[simp] theorem modSeq_errs (c : PCore) (f : Seq → Seq) : (s.modSeq c f).errs = s.errs := rfl
@[simp] theorem modSeq_dbg (c : PCore) (f : Seq → Seq) : (s.modSeq c f).dbg = s.dbg := rfl
@[simp] theorem modSeq_cnt (c : PCore) (f : Seq → Seq) : (s.modSeq c f).cnt = s.cnt := rfl
@[simp] theorem modSeq_trc (c : PCore) (f : Seq → Seq) : (s.modSeq c f).trc = s.trc := rfl
@[simp] theorem modSeq_streams (c : PCore) (f : Seq → Seq) : (s.modSeq c f).streams = s.streams := rfl
@[simp] theorem modSeq_hostMem (c : PCore) (f : Seq → Seq) : (s.modSeq c f).hostMem = s.hostMem := rfl
@[simp] theorem modSeq_devMem (c : PCore) (f : Seq → Seq) : (s.modSeq c f).devMem = s.devMem := rfl
@[simp] theorem modSeq_outst (c : PCore) (f : Seq → Seq) : (s.modSeq c f).outst = s.outst := rfl
@[simp] theorem modSeq_lastRead (c : PCore) (f : Seq → Seq) : (s.modSeq c f).lastRead = s.lastRead := rfl
@[simp] theorem modSeq_ctx_same (c : PCore) (f : Seq → Seq) (z : Slot) : (s.modSeq c f).ctx z = s.ctx z := rfl
@[simp] theorem modSeq_pit_same (c : PCore) (f : Seq → Seq) (z : Pitch) : (s.modSeq c f).pit z = s.pit z := rfl
@[simp] theorem modSeq_port_same (c : PCore) (f : Seq → Seq) (z : LPort) : (s.modSeq c f).port z = s.port z := rfl

@[simp] theorem modPit_pending (p : Pitch) (f : PitchSt → PitchSt) : (s.modPit p f).pending = s.pending := rfl
@[simp] theorem modPit_free (p : Pitch) (f : PitchSt → PitchSt) : (s.modPit p f).free = s.free := rfl
@[simp] theorem modPit_clk (p : Pitch) (f : PitchSt → PitchSt) : (s.modPit p f).clk = s.clk := rfl
@[simp] theorem modPit_mgmt (p : Pitch) (f : PitchSt → PitchSt) : (s.modPit p f).mgmt = s.mgmt := rfl
@[simp] theorem modPit_cfg (p : Pitch) (f : PitchSt → PitchSt) : (s.modPit p f).cfg = s.cfg := rfl
@[simp] theorem modPit_straps (p : Pitch) (f : PitchSt → PitchSt) : (s.modPit p f).straps = s.straps := rfl
@[simp] theorem modPit_fuse (p : Pitch) (f : PitchSt → PitchSt) : (s.modPit p f).fuse = s.fuse := rfl
@[simp] theorem modPit_wrap (p : Pitch) (f : PitchSt → PitchSt) : (s.modPit p f).wrap = s.wrap := rfl
@[simp] theorem modPit_pwr (p : Pitch) (f : PitchSt → PitchSt) : (s.modPit p f).pwr = s.pwr := rfl
@[simp] theorem modPit_hst (p : Pitch) (f : PitchSt → PitchSt) : (s.modPit p f).hst = s.hst := rfl
@[simp] theorem modPit_bel (p : Pitch) (f : PitchSt → PitchSt) : (s.modPit p f).bel = s.bel := rfl
@[simp] theorem modPit_mkt (p : Pitch) (f : PitchSt → PitchSt) : (s.modPit p f).mkt = s.mkt := rfl
@[simp] theorem modPit_ctxs (p : Pitch) (f : PitchSt → PitchSt) : (s.modPit p f).ctxs = s.ctxs := rfl
@[simp] theorem modPit_cores (p : Pitch) (f : PitchSt → PitchSt) : (s.modPit p f).cores = s.cores := rfl
@[simp] theorem modPit_ports (p : Pitch) (f : PitchSt → PitchSt) : (s.modPit p f).ports = s.ports := rfl
@[simp] theorem modPit_ev (p : Pitch) (f : PitchSt → PitchSt) : (s.modPit p f).ev = s.ev := rfl
@[simp] theorem modPit_errs (p : Pitch) (f : PitchSt → PitchSt) : (s.modPit p f).errs = s.errs := rfl
@[simp] theorem modPit_dbg (p : Pitch) (f : PitchSt → PitchSt) : (s.modPit p f).dbg = s.dbg := rfl
@[simp] theorem modPit_cnt (p : Pitch) (f : PitchSt → PitchSt) : (s.modPit p f).cnt = s.cnt := rfl
@[simp] theorem modPit_trc (p : Pitch) (f : PitchSt → PitchSt) : (s.modPit p f).trc = s.trc := rfl
@[simp] theorem modPit_streams (p : Pitch) (f : PitchSt → PitchSt) : (s.modPit p f).streams = s.streams := rfl
@[simp] theorem modPit_hostMem (p : Pitch) (f : PitchSt → PitchSt) : (s.modPit p f).hostMem = s.hostMem := rfl
@[simp] theorem modPit_devMem (p : Pitch) (f : PitchSt → PitchSt) : (s.modPit p f).devMem = s.devMem := rfl
@[simp] theorem modPit_outst (p : Pitch) (f : PitchSt → PitchSt) : (s.modPit p f).outst = s.outst := rfl
@[simp] theorem modPit_lastRead (p : Pitch) (f : PitchSt → PitchSt) : (s.modPit p f).lastRead = s.lastRead := rfl
@[simp] theorem modPit_ctx_same (p : Pitch) (f : PitchSt → PitchSt) (z : Slot) : (s.modPit p f).ctx z = s.ctx z := rfl
@[simp] theorem modPit_core_same (p : Pitch) (f : PitchSt → PitchSt) (z : PCore) : (s.modPit p f).core z = s.core z := rfl
@[simp] theorem modPit_port_same (p : Pitch) (f : PitchSt → PitchSt) (z : LPort) : (s.modPit p f).port z = s.port z := rfl

@[simp] theorem modPort_pending (p : LPort) (f : Port → Port) : (s.modPort p f).pending = s.pending := rfl
@[simp] theorem modPort_free (p : LPort) (f : Port → Port) : (s.modPort p f).free = s.free := rfl
@[simp] theorem modPort_clk (p : LPort) (f : Port → Port) : (s.modPort p f).clk = s.clk := rfl
@[simp] theorem modPort_mgmt (p : LPort) (f : Port → Port) : (s.modPort p f).mgmt = s.mgmt := rfl
@[simp] theorem modPort_cfg (p : LPort) (f : Port → Port) : (s.modPort p f).cfg = s.cfg := rfl
@[simp] theorem modPort_straps (p : LPort) (f : Port → Port) : (s.modPort p f).straps = s.straps := rfl
@[simp] theorem modPort_fuse (p : LPort) (f : Port → Port) : (s.modPort p f).fuse = s.fuse := rfl
@[simp] theorem modPort_wrap (p : LPort) (f : Port → Port) : (s.modPort p f).wrap = s.wrap := rfl
@[simp] theorem modPort_pwr (p : LPort) (f : Port → Port) : (s.modPort p f).pwr = s.pwr := rfl
@[simp] theorem modPort_hst (p : LPort) (f : Port → Port) : (s.modPort p f).hst = s.hst := rfl
@[simp] theorem modPort_bel (p : LPort) (f : Port → Port) : (s.modPort p f).bel = s.bel := rfl
@[simp] theorem modPort_mkt (p : LPort) (f : Port → Port) : (s.modPort p f).mkt = s.mkt := rfl
@[simp] theorem modPort_pits (p : LPort) (f : Port → Port) : (s.modPort p f).pits = s.pits := rfl
@[simp] theorem modPort_ctxs (p : LPort) (f : Port → Port) : (s.modPort p f).ctxs = s.ctxs := rfl
@[simp] theorem modPort_cores (p : LPort) (f : Port → Port) : (s.modPort p f).cores = s.cores := rfl
@[simp] theorem modPort_ev (p : LPort) (f : Port → Port) : (s.modPort p f).ev = s.ev := rfl
@[simp] theorem modPort_errs (p : LPort) (f : Port → Port) : (s.modPort p f).errs = s.errs := rfl
@[simp] theorem modPort_dbg (p : LPort) (f : Port → Port) : (s.modPort p f).dbg = s.dbg := rfl
@[simp] theorem modPort_cnt (p : LPort) (f : Port → Port) : (s.modPort p f).cnt = s.cnt := rfl
@[simp] theorem modPort_trc (p : LPort) (f : Port → Port) : (s.modPort p f).trc = s.trc := rfl
@[simp] theorem modPort_streams (p : LPort) (f : Port → Port) : (s.modPort p f).streams = s.streams := rfl
@[simp] theorem modPort_hostMem (p : LPort) (f : Port → Port) : (s.modPort p f).hostMem = s.hostMem := rfl
@[simp] theorem modPort_devMem (p : LPort) (f : Port → Port) : (s.modPort p f).devMem = s.devMem := rfl
@[simp] theorem modPort_outst (p : LPort) (f : Port → Port) : (s.modPort p f).outst = s.outst := rfl
@[simp] theorem modPort_lastRead (p : LPort) (f : Port → Port) : (s.modPort p f).lastRead = s.lastRead := rfl
@[simp] theorem modPort_ctx_same (p : LPort) (f : Port → Port) (z : Slot) : (s.modPort p f).ctx z = s.ctx z := rfl
@[simp] theorem modPort_core_same (p : LPort) (f : Port → Port) (z : PCore) : (s.modPort p f).core z = s.core z := rfl
@[simp] theorem modPort_pit_same (p : LPort) (f : Port → Port) (z : Pitch) : (s.modPort p f).pit z = s.pit z := rfl

@[simp] theorem countCore_pending (c : PCore) (i : Fin 32) (k : Nat) : (s.countCore c i k).pending = s.pending := rfl
@[simp] theorem countCore_free (c : PCore) (i : Fin 32) (k : Nat) : (s.countCore c i k).free = s.free := rfl
@[simp] theorem countCore_clk (c : PCore) (i : Fin 32) (k : Nat) : (s.countCore c i k).clk = s.clk := rfl
@[simp] theorem countCore_mgmt (c : PCore) (i : Fin 32) (k : Nat) : (s.countCore c i k).mgmt = s.mgmt := rfl
@[simp] theorem countCore_cfg (c : PCore) (i : Fin 32) (k : Nat) : (s.countCore c i k).cfg = s.cfg := rfl
@[simp] theorem countCore_straps (c : PCore) (i : Fin 32) (k : Nat) : (s.countCore c i k).straps = s.straps := rfl
@[simp] theorem countCore_fuse (c : PCore) (i : Fin 32) (k : Nat) : (s.countCore c i k).fuse = s.fuse := rfl
@[simp] theorem countCore_wrap (c : PCore) (i : Fin 32) (k : Nat) : (s.countCore c i k).wrap = s.wrap := rfl
@[simp] theorem countCore_pwr (c : PCore) (i : Fin 32) (k : Nat) : (s.countCore c i k).pwr = s.pwr := rfl
@[simp] theorem countCore_hst (c : PCore) (i : Fin 32) (k : Nat) : (s.countCore c i k).hst = s.hst := rfl
@[simp] theorem countCore_bel (c : PCore) (i : Fin 32) (k : Nat) : (s.countCore c i k).bel = s.bel := rfl
@[simp] theorem countCore_mkt (c : PCore) (i : Fin 32) (k : Nat) : (s.countCore c i k).mkt = s.mkt := rfl
@[simp] theorem countCore_pits (c : PCore) (i : Fin 32) (k : Nat) : (s.countCore c i k).pits = s.pits := rfl
@[simp] theorem countCore_ctxs (c : PCore) (i : Fin 32) (k : Nat) : (s.countCore c i k).ctxs = s.ctxs := rfl
@[simp] theorem countCore_ports (c : PCore) (i : Fin 32) (k : Nat) : (s.countCore c i k).ports = s.ports := rfl
@[simp] theorem countCore_ev (c : PCore) (i : Fin 32) (k : Nat) : (s.countCore c i k).ev = s.ev := rfl
@[simp] theorem countCore_errs (c : PCore) (i : Fin 32) (k : Nat) : (s.countCore c i k).errs = s.errs := rfl
@[simp] theorem countCore_dbg (c : PCore) (i : Fin 32) (k : Nat) : (s.countCore c i k).dbg = s.dbg := rfl
@[simp] theorem countCore_cnt (c : PCore) (i : Fin 32) (k : Nat) : (s.countCore c i k).cnt = s.cnt := rfl
@[simp] theorem countCore_trc (c : PCore) (i : Fin 32) (k : Nat) : (s.countCore c i k).trc = s.trc := rfl
@[simp] theorem countCore_streams (c : PCore) (i : Fin 32) (k : Nat) : (s.countCore c i k).streams = s.streams := rfl
@[simp] theorem countCore_hostMem (c : PCore) (i : Fin 32) (k : Nat) : (s.countCore c i k).hostMem = s.hostMem := rfl
@[simp] theorem countCore_devMem (c : PCore) (i : Fin 32) (k : Nat) : (s.countCore c i k).devMem = s.devMem := rfl
@[simp] theorem countCore_outst (c : PCore) (i : Fin 32) (k : Nat) : (s.countCore c i k).outst = s.outst := rfl
@[simp] theorem countCore_lastRead (c : PCore) (i : Fin 32) (k : Nat) : (s.countCore c i k).lastRead = s.lastRead := rfl
@[simp] theorem countCore_ctx_same (c : PCore) (i : Fin 32) (k : Nat) (z : Slot) : (s.countCore c i k).ctx z = s.ctx z := rfl
@[simp] theorem countCore_pit_same (c : PCore) (i : Fin 32) (k : Nat) (z : Pitch) : (s.countCore c i k).pit z = s.pit z := rfl
@[simp] theorem countCore_port_same (c : PCore) (i : Fin 32) (k : Nat) (z : LPort) : (s.countCore c i k).port z = s.port z := rfl

@[simp] theorem countCtx_pending (j : Slot) (i : Fin 32) (k : Nat) : (s.countCtx j i k).pending = s.pending := rfl
@[simp] theorem countCtx_free (j : Slot) (i : Fin 32) (k : Nat) : (s.countCtx j i k).free = s.free := rfl
@[simp] theorem countCtx_clk (j : Slot) (i : Fin 32) (k : Nat) : (s.countCtx j i k).clk = s.clk := rfl
@[simp] theorem countCtx_mgmt (j : Slot) (i : Fin 32) (k : Nat) : (s.countCtx j i k).mgmt = s.mgmt := rfl
@[simp] theorem countCtx_cfg (j : Slot) (i : Fin 32) (k : Nat) : (s.countCtx j i k).cfg = s.cfg := rfl
@[simp] theorem countCtx_straps (j : Slot) (i : Fin 32) (k : Nat) : (s.countCtx j i k).straps = s.straps := rfl
@[simp] theorem countCtx_fuse (j : Slot) (i : Fin 32) (k : Nat) : (s.countCtx j i k).fuse = s.fuse := rfl
@[simp] theorem countCtx_wrap (j : Slot) (i : Fin 32) (k : Nat) : (s.countCtx j i k).wrap = s.wrap := rfl
@[simp] theorem countCtx_pwr (j : Slot) (i : Fin 32) (k : Nat) : (s.countCtx j i k).pwr = s.pwr := rfl
@[simp] theorem countCtx_hst (j : Slot) (i : Fin 32) (k : Nat) : (s.countCtx j i k).hst = s.hst := rfl
@[simp] theorem countCtx_bel (j : Slot) (i : Fin 32) (k : Nat) : (s.countCtx j i k).bel = s.bel := rfl
@[simp] theorem countCtx_mkt (j : Slot) (i : Fin 32) (k : Nat) : (s.countCtx j i k).mkt = s.mkt := rfl
@[simp] theorem countCtx_pits (j : Slot) (i : Fin 32) (k : Nat) : (s.countCtx j i k).pits = s.pits := rfl
@[simp] theorem countCtx_cores (j : Slot) (i : Fin 32) (k : Nat) : (s.countCtx j i k).cores = s.cores := rfl
@[simp] theorem countCtx_ports (j : Slot) (i : Fin 32) (k : Nat) : (s.countCtx j i k).ports = s.ports := rfl
@[simp] theorem countCtx_ev (j : Slot) (i : Fin 32) (k : Nat) : (s.countCtx j i k).ev = s.ev := rfl
@[simp] theorem countCtx_errs (j : Slot) (i : Fin 32) (k : Nat) : (s.countCtx j i k).errs = s.errs := rfl
@[simp] theorem countCtx_dbg (j : Slot) (i : Fin 32) (k : Nat) : (s.countCtx j i k).dbg = s.dbg := rfl
@[simp] theorem countCtx_cnt (j : Slot) (i : Fin 32) (k : Nat) : (s.countCtx j i k).cnt = s.cnt := rfl
@[simp] theorem countCtx_trc (j : Slot) (i : Fin 32) (k : Nat) : (s.countCtx j i k).trc = s.trc := rfl
@[simp] theorem countCtx_streams (j : Slot) (i : Fin 32) (k : Nat) : (s.countCtx j i k).streams = s.streams := rfl
@[simp] theorem countCtx_hostMem (j : Slot) (i : Fin 32) (k : Nat) : (s.countCtx j i k).hostMem = s.hostMem := rfl
@[simp] theorem countCtx_devMem (j : Slot) (i : Fin 32) (k : Nat) : (s.countCtx j i k).devMem = s.devMem := rfl
@[simp] theorem countCtx_outst (j : Slot) (i : Fin 32) (k : Nat) : (s.countCtx j i k).outst = s.outst := rfl
@[simp] theorem countCtx_lastRead (j : Slot) (i : Fin 32) (k : Nat) : (s.countCtx j i k).lastRead = s.lastRead := rfl
@[simp] theorem countCtx_core_same (j : Slot) (i : Fin 32) (k : Nat) (z : PCore) : (s.countCtx j i k).core z = s.core z := rfl
@[simp] theorem countCtx_pit_same (j : Slot) (i : Fin 32) (k : Nat) (z : Pitch) : (s.countCtx j i k).pit z = s.pit z := rfl
@[simp] theorem countCtx_port_same (j : Slot) (i : Fin 32) (k : Nat) (z : LPort) : (s.countCtx j i k).port z = s.port z := rfl

/-! ### What an update of one unit does to it -/

@[simp] theorem modCtx_ctx (i j : Slot) (f : Ctx → Ctx) : (s.modCtx i f).ctx j = if j = i then f (s.ctx i) else s.ctx j :=
  tab_get_put s.ctxs i j (f (s.ctxs.get i))

@[simp] theorem modCore_core (c k : PCore) (f : Core → Core) :
    (s.modCore c f).core k = if k = c then f (s.core c) else s.core k := tab_get_put s.cores c k (f (s.cores.get c))

@[simp] theorem modSeq_core (c k : PCore) (f : Seq → Seq) :
    (s.modSeq c f).core k = if k = c then { s.core c with seq := f (s.core c).seq } else s.core k := modCore_core s c k _

@[simp] theorem modPit_pit (p q : Pitch) (f : PitchSt → PitchSt) :
    (s.modPit p f).pit q = if q = p then f (s.pit p) else s.pit q := tab_get_put s.pits p q (f (s.pits.get p))

@[simp] theorem modPort_port (p q : LPort) (f : Port → Port) :
    (s.modPort p f).port q = if q = p then f (s.port p) else s.port q := tab_get_put s.ports p q (f (s.ports.get p))

@[simp] theorem countCore_core (c k : PCore) (i : Fin 32) (n : Nat) : (s.countCore c i n).core k =
    if k = c then { s.core c with counters := (s.core c).counters.put i ((s.core c).counters.get i + n) } else s.core k :=
  modCore_core s c k _

@[simp] theorem countCtx_ctx (j k : Slot) (i : Fin 32) (n : Nat) : (s.countCtx j i n).ctx k =
    if k = j then { s.ctx j with counters := (s.ctx j).counters.put i ((s.ctx j).counters.get i + n) } else s.ctx k :=
  modCtx_ctx s j k _

theorem modCtx_self (i : Slot) (f : Ctx → Ctx) (h : f (s.ctx i) = s.ctx i) : s.modCtx i f = s := by
  have e : s.modCtx i f = { s with ctxs := s.ctxs.put i (f (s.ctx i)) } := rfl
  rw [e, h]; unfold State.ctx; rw [tab_put_get]

theorem modCore_self (c : PCore) (f : Core → Core) (h : f (s.core c) = s.core c) : s.modCore c f = s := by
  have e : s.modCore c f = { s with cores := s.cores.put c (f (s.core c)) } := rfl
  rw [e, h]; unfold State.core; rw [tab_put_get]

theorem modSeq_id (c : PCore) : s.modSeq c id = s := modCore_self s c _ rfl

theorem modCore_modCore (c : PCore) (f g : Core → Core) : (s.modCore c f).modCore c g = s.modCore c fun k => g (f k) := by
  simp [State.modCore]

theorem modSeq_modSeq (c : PCore) (f g : Seq → Seq) : (s.modSeq c f).modSeq c g = s.modSeq c fun q => g (f q) := by
  simp [State.modSeq, State.modCore]

/-! ### Commands that take effect through act -/

/-- While the test wrapper holds the block nothing happens (R409). -/
theorem act_of_hold (f : State → State) (h : s.wrap.hold = true) : s.act f = s := by simp [State.act, h]

/-- Otherwise the effect happens, but for what only its own commands change. -/
theorem act_of_free (f : State → State) (h : s.wrap.hold = false) :
    s.act f = { f s with pending := s.pending, straps := s.straps, fuse := s.fuse, wrap := s.wrap } := by simp [State.act, h]

/-- An effect that leaves those fields happens whole. -/
theorem act_eq (f : State → State) (h : s.wrap.hold = false) (hp : (f s).pending = s.pending)
    (ht : (f s).straps = s.straps) (hf : (f s).fuse = s.fuse) (hw : (f s).wrap = s.wrap) : s.act f = f s := by
  rw [act_of_free s f h, ← hp, ← ht, ← hf, ← hw]

@[simp] theorem act_pending (f : State → State) : (s.act f).pending = s.pending := by unfold State.act; split <;> rfl
@[simp] theorem act_straps (f : State → State) : (s.act f).straps = s.straps := by unfold State.act; split <;> rfl
@[simp] theorem act_fuse (f : State → State) : (s.act f).fuse = s.fuse := by unfold State.act; split <;> rfl
@[simp] theorem act_wrap (f : State → State) : (s.act f).wrap = s.wrap := by unfold State.act; split <;> rfl

theorem act_id : s.act id = s := by unfold State.act; split <;> rfl

/-- A command that takes effect through act answers a next state. -/
theorem run_eq (f : State → State) : s.run f = .next (s.act f) := rfl

/-- Any other field after a command is what its effect leaves. -/
theorem act_proj {α : Type} (f : State → State) (g : State → α) (h : s.wrap.hold = false)
    (hg : ∀ t : State, ∀ p a b c, g { t with pending := p, straps := a, fuse := b, wrap := c } = g t) : g (s.act f) = g (f s) := by
  rw [act_of_free s f h]; exact hg _ _ _ _ _

end Sys2Proof.Machine
end

