-- ==== Sys2Proof/Laws/Report.lean ====
section
/-! SUPPORT. Sys2Proof/Laws/Report.lean: what a report, a counted event, a trace record, a hang-ring event and a host write leave
as it is. -/

namespace Sys2Proof.Machine

/-- From s to t only what reports write has changed: counters, trace, hang rings, event egress and event ring, host memory, writes in
flight, and the cores that a report retires. -/
structure ReportsOnly (s t : State) : Prop where
  pending : t.pending = s.pending
  free : t.free = s.free
  clk : t.clk = s.clk
  mgmt : t.mgmt = s.mgmt
  cfg : t.cfg = { s.cfg with staleSaid := t.cfg.staleSaid }
  straps : t.straps = s.straps
  fuse : t.fuse = s.fuse
  wrap : t.wrap = s.wrap
  pwr : t.pwr = s.pwr
  hst : t.hst = { s.hst with evTail := t.hst.evTail }
  bel : t.bel = s.bel
  mkt : t.mkt = s.mkt
  pits : t.pits = s.pits
  ctxs : t.ctxs = s.ctxs
  cores : t.cores = s.cores
  ports : t.ports = s.ports
  held : t.ev.held = s.ev.held
  errs : t.errs = { s.errs with want := t.errs.want }
  dbg : t.dbg = { s.dbg with hang := t.dbg.hang }
  trcEn : t.trc.en = s.trc.en
  trcPolicy : t.trc.policy = s.trc.policy
  streams : t.streams = s.streams
  devMem : t.devMem = s.devMem

namespace ReportsOnly

theorem refl (s : State) : ReportsOnly s s := by constructor <;> rfl

theorem trans {s t u : State} (a : ReportsOnly s t) (b : ReportsOnly t u) : ReportsOnly s u where
  pending := b.pending.trans a.pending
  free := b.free.trans a.free
  clk := b.clk.trans a.clk
  mgmt := b.mgmt.trans a.mgmt
  cfg := by rw [b.cfg, a.cfg]
  straps := b.straps.trans a.straps
  fuse := b.fuse.trans a.fuse
  wrap := b.wrap.trans a.wrap
  pwr := b.pwr.trans a.pwr
  hst := by rw [b.hst, a.hst]
  bel := b.bel.trans a.bel
  mkt := b.mkt.trans a.mkt
  pits := b.pits.trans a.pits
  ctxs := b.ctxs.trans a.ctxs
  cores := b.cores.trans a.cores
  ports := b.ports.trans a.ports
  held := b.held.trans a.held
  errs := by rw [b.errs, a.errs]
  dbg := by rw [b.dbg, a.dbg]
  trcEn := b.trcEn.trans a.trcEn
  trcPolicy := b.trcPolicy.trans a.trcPolicy
  streams := b.streams.trans a.streams
  devMem := b.devMem.trans a.devMem

theorem ctx {s t : State} (h : ReportsOnly s t) (i : Slot) : t.ctx i = s.ctx i := by unfold State.ctx; rw [h.ctxs]
theorem core {s t : State} (h : ReportsOnly s t) (c : PCore) : t.core c = s.core c := by unfold State.core; rw [h.cores]
theorem pit {s t : State} (h : ReportsOnly s t) (p : Pitch) : t.pit p = s.pit p := by unfold State.pit; rw [h.pits]
theorem port {s t : State} (h : ReportsOnly s t) (p : LPort) : t.port p = s.port p := by unfold State.port; rw [h.ports]

end ReportsOnly

variable (s : State)

theorem count_only (n k : Nat) : ReportsOnly s (s.count n k) := by
  unfold State.count; split
  · exact ReportsOnly.refl s
  · constructor <;> rfl

theorem taken_only (kind index : Nat) (o : Option Slot) : ReportsOnly s (s.taken kind index o) := by
  unfold State.taken; simp only []; split
  · constructor <;> rfl
  · exact ReportsOnly.refl s

theorem hang_only (o : W16) (sub e slot : Nat) (d : W64) : ReportsOnly s (s.hang o sub e slot d) := by
  unfold State.hang; split
  · exact ReportsOnly.refl s
  · constructor <;> rfl

theorem queueWindow_only (w : CoWindow) : ReportsOnly s (s.queueWindow w) := by
  unfold State.queueWindow
  have a : ReportsOnly s (if w.code = 0x4040 && w.reporters ≥ 2 && ((List.range 72).filter fun i => w.mask.getLsbD i).length ≥ 2
      && w.origin.toNat / 4096 = 1 then
        match core? (w.origin.toNat % 4096) with
        | some c => { s with errs := { s.errs with want := s.errs.want ++ [(c, false)] } }
        | none => s
      else s) := by
    split
    · split
      · constructor <;> rfl
      · exact ReportsOnly.refl s
    · exact ReportsOnly.refl s
  have b : ∀ u : State, ReportsOnly u (if u.ev.high.length + u.ev.low.length ≥ 1024 then
      { (u.count 0x1A46 1) with ev := { u.ev with lost := u.ev.lost + 1 } }
    else if w.code.toNat / 4096 = 1 then { u with ev := { u.ev with low := u.ev.low ++ [w] } }
    else { u with ev := { u.ev with high := u.ev.high ++ [w] } }) := fun u => by
    split
    · exact (count_only u 0x1A46 1).trans (by constructor <;> rfl)
    · split <;> (constructor <;> rfl)
  exact a.trans (b _)

theorem enterReport_only (r : Report) (torn : Bool) : ReportsOnly s (s.enterReport r torn) := by
  unfold State.enterReport
  simp only []
  split
  · constructor <;> rfl
  · refine ReportsOnly.trans (t := match s.ev.windows with
      | w :: t => if (w :: t).length ≥ 16 then { s with ev := { s.ev with windows := t } }.queueWindow w else s
      | [] => s) ?_ (by constructor <;> rfl)
    split
    · split
      · exact ReportsOnly.trans (t := { s with ev := { s.ev with windows := _ } }) (by constructor <;> rfl) (queueWindow_only _ _)
      · exact ReportsOnly.refl s
    · exact ReportsOnly.refl s

theorem traceLose_only (n : Nat) : ReportsOnly s (s.traceLose n) :=
  (count_only s _ _).trans (by constructor <;> rfl)

theorem tracePlace_only (item : List Byte) (n : Nat) : ReportsOnly s (s.tracePlace item n) := by
  have b : ∀ loss keep : List (List Byte), ReportsOnly s (if natSum (keep.map fun b => b.length / 64) + (item.length / 64 + loss.length) ≤ traceCap then
      { s with trc := { s.trc with ring := keep ++ loss ++ [item], lostSince := 0, heldPkt := none } }
    else if s.trc.policy = 1 then { s with trc := { s.trc with heldPkt := some item } } else s.traceLose n) := fun loss keep => by
    split
    · constructor <;> rfl
    · split
      · constructor <;> rfl
      · exact traceLose_only s n
  exact b _ _

theorem traceClose_only : ReportsOnly s s.traceClose := by
  unfold State.traceClose; simp only []
  split
  · exact ReportsOnly.refl s
  · exact ReportsOnly.trans (t := { s with trc := { s.trc with packet := s.trc.packet.drop 64, firstAt := s.clk.time } }) (by constructor <;> rfl) (tracePlace_only _ _ _)

theorem traceFreeze_only : ReportsOnly s s.traceFreeze :=
  (traceClose_only s).trans (ReportsOnly.trans (t := { s.traceClose with
    trc := { s.traceClose.trc with frozen := true, left := none } }) (by constructor <;> rfl) (enterReport_only _ _ _))

theorem traceAccept_only (r : List Byte) : ReportsOnly s (s.traceAccept r) := by
  have full : ∀ u : State, ReportsOnly u (if u.trc.packet.length ≥ 64 then u.traceClose else u) := fun u => by
    split
    · exact traceClose_only u
    · exact ReportsOnly.refl u
  have last : ∀ u : State, ReportsOnly u (if u.trc.left = some 0 then u.traceFreeze else u) := fun u => by
    split
    · exact traceFreeze_only u
    · exact ReportsOnly.refl u
  have put : ReportsOnly s { (s.count 0x1A49 1) with trc := { s.trc with
      packet := s.trc.packet ++ [r], left := s.trc.left.map (· - 1)
      firstAt := if s.trc.packet.isEmpty then s.clk.time else s.trc.firstAt } } :=
    (count_only s 0x1A49 1).trans (by constructor <;> rfl)
  unfold State.traceAccept
  by_cases h : s.trc.heldPkt.isSome = true
  · rw [if_pos h]; constructor <;> rfl
  · rw [if_neg h]; exact put.trans ((full _).trans (last _))

theorem traceAt_only (time kind slot : Nat) (o : W16) (body : List Byte) : ReportsOnly s (s.traceAt time kind slot o body) := by
  unfold State.traceAt
  by_cases h1 : (!s.trc.en || !(kind == 1 || s.trc.kinds.getLsbD (kind - 1))) = true
  · rw [if_pos h1]; exact ReportsOnly.refl s
  · by_cases h2 : s.trc.frozen = true
    · rw [if_neg h1, if_pos h2]; exact traceLose_only s 1
    · rw [if_neg h1, if_neg h2]; exact traceAccept_only s _

theorem trace_only (kind slot : Nat) (o : W16) (body : List Byte) : ReportsOnly s (s.trace kind slot o body) := traceAt_only s _ _ _ _ _

theorem place_only (w : OutWrite) (h : w.port = 16) : ReportsOnly s (s.place w) := by
  unfold State.place
  rw [if_pos h]
  constructor <;> rfl

theorem putWrite_only (w : OutWrite) (h : w.port = 16) : ReportsOnly s (s.putWrite w).1 := by
  unfold State.putWrite
  split
  · exact ReportsOnly.refl s
  · exact place_only s w h

theorem outWrite_only (w : OutWrite) (h : w.port = 16) : ReportsOnly s (s.outWrite w) := by
  have put : ∀ (u : State) (l : List OutWrite), ReportsOnly u { u with outst := l } := fun u l => by constructor <;> rfl
  unfold State.outWrite
  split
  · exact put s _
  · simp only []
    split
    · exact ((putWrite_only s w h).trans (put _ _)).trans (hang_only _ _ _ _ _ _)
    · exact (putWrite_only s w h).trans (put _ _)

theorem beatOut_only (o : WOwner) (b : Nat × List Byte) : ReportsOnly s (s.beatOut 16 o b) := by
  exact (count_only s _ _).trans (outWrite_only _ _ rfl)

theorem beatsOut_only (o : WOwner) (l : List (Nat × List Byte)) : ∀ s : State, ReportsOnly s (l.foldl (fun s b => s.beatOut 16 o b) s) := by
  induction l with
  | nil => exact fun s => ReportsOnly.refl s
  | cons b l ih => exact fun s => (beatOut_only s o b).trans (ih _)

theorem hostWrite_only (a : Nat) (bs : List Byte) (o : WOwner) : ReportsOnly s (s.hostWrite a bs o) := beatsOut_only o _ s

theorem evWrite_only (w : CoWindow) : ReportsOnly s (s.evWrite w) := by
  have step : ∀ u : State, ReportsOnly u { u with hst := { u.hst with evTail := (s.hst.evTail + 1) % 2 ^ 31 } } := fun u => by
    constructor <;> rfl
  exact (hostWrite_only s _ _ _).trans ((step _).trans ((count_only _ 0x1A45 1).trans ((taken_only _ 6 0 none).trans (trace_only _ _ _ _ _))))

theorem triggerTrace_only : ReportsOnly s s.triggerTrace := by
  have go : ReportsOnly s { s with trc := { s.trc with triggered := true } } := by constructor <;> rfl
  have stop : ∀ u : State, ReportsOnly u (if s.trc.policy ≠ 2 then u
      else if s.trc.post = 0 then u.traceFreeze
      else { u with trc := { u.trc with left := some s.trc.post } }) := fun u => by
    split
    · exact ReportsOnly.refl u
    · split
      · exact traceFreeze_only u
      · constructor <;> rfl
  unfold State.triggerTrace
  by_cases h : (!s.trc.en || s.trc.triggered) = true
  · rw [if_pos h]; exact ReportsOnly.refl s
  · rw [if_neg h]; exact go.trans ((trace_only _ _ _ _ _).trans ((enterReport_only _ _ _).trans (stop _)))

theorem triggerOn_only (code : W16) : ReportsOnly s (s.triggerOn code) := by
  unfold State.triggerOn
  split
  · exact triggerTrace_only s
  · exact ReportsOnly.refl s

theorem evDrain_only : ∀ (n : Nat) (s : State), ReportsOnly s (s.evDrain n)
  | 0, s => ReportsOnly.refl s
  | n + 1, s => by
    have lost : ∀ t, ReportsOnly s t → ReportsOnly s (State.evDrain { t with ev := { t.ev with lost := 0 } } n) := fun t h =>
      h.trans (ReportsOnly.trans (t := { t with ev := { t.ev with lost := 0 } }) (by constructor <;> rfl) (evDrain_only n _))
    have high : ∀ w l, ReportsOnly s (State.evDrain ({ s with ev := { s.ev with high := l } }.evWrite w) n) := fun w l =>
      ReportsOnly.trans (t := { s with ev := { s.ev with high := l } }) (by constructor <;> rfl) ((evWrite_only _ w).trans (evDrain_only n _))
    have low : ∀ w l, ReportsOnly s (State.evDrain ({ s with ev := { s.ev with low := l } }.evWrite w) n) := fun w l =>
      ReportsOnly.trans (t := { s with ev := { s.ev with low := l } }) (by constructor <;> rfl) ((evWrite_only _ w).trans (evDrain_only n _))
    unfold State.evDrain
    split
    · exact ReportsOnly.refl s
    · split
      · exact ReportsOnly.refl s
      · split
        · exact lost _ ((evWrite_only s _).trans (triggerOn_only _ _))
        · split
          · exact high _ _
          · exact low _ _
          · exact ReportsOnly.refl s

/-- A report changes only what reports write. -/
theorem report_only (r : Report) (torn : Bool) : ReportsOnly s (s.report r torn) := by
  exact ((enterReport_only s r torn).trans (evDrain_only 2 _)).trans (triggerOn_only _ _)

theorem note_only (code : W16) (d : Nat) : ReportsOnly s (s.note code d) := report_only s _ _
theorem noteCtx_only (code : W16) (i : Slot) (d : Nat) : ReportsOnly s (s.noteCtx code i d) := report_only s _ _

/-- The one window that a report opens where none is open and the event ring takes nothing. -/
theorem report_window (r : Report) (torn : Bool) (hw : s.ev.windows = []) (hr : s.evRoom = false) (ht : s.trc.src ≠ 1) :
    ∃ w, (s.report r torn).ev.windows = [w] ∧ w.code = r.code ∧ w.slot = r.slot ∧ w.origin = r.origin ∧ w.detail = r.detail ∧
      (s.report r torn).ev.high = s.ev.high ∧ (s.report r torn).ev.low = s.ev.low ∧ (s.report r torn).ev.lost = s.ev.lost := by
  have e : ∀ u : State, u.evRoom = false → u.evDrain 2 = u := fun u h => by rw [State.evDrain]; simp [h]
  have ent : s.enterReport r torn = { s with ev := { s.ev with windows := [{
      code := r.code, origin := r.origin, slot := r.slot
      ctxId := (match slot? r.slot with | some i => ((s.ctx i).id, (s.ctx i).step) | none => (0, 0)).1, time := s.clk.time, bell := s.bel.count
      step := (match slot? r.slot with | some i => ((s.ctx i).id, (s.ctx i).step) | none => (0, 0)).2, detail := r.detail, reporters := 1
      mask := (match r.core with | some c => setBit 0 c.val true | none => 0), first := s.clk.cycle, torn := torn }] } } := by
    unfold State.enterReport; simp only [hw, List.any_nil, Bool.false_eq_true, if_false, List.nil_append] <;> cases slot? r.slot <;> rfl
  have room : (s.enterReport r torn).evRoom = false := by rw [ent]; exact hr
  have src : (s.enterReport r torn).trc.src = s.trc.src := by rw [ent]
  unfold State.report State.triggerOn
  simp only [e _ room, src, ht, decide_false, Bool.false_and, if_false, Bool.false_eq_true]
  rw [ent]
  exact ⟨_, rfl, rfl, rfl, rfl, rfl, rfl, rfl, rfl⟩

end Sys2Proof.Machine
end

