-- ==== Sys2Proof/Laws/Seq.lean ====
section
/-! SUPPORT. Sys2Proof/Laws/Seq.lean: what the shared operations of the sequencer do: the fetch that finds its instruction, the
issue, the wait for registers, the move to the next word and the jump. -/

namespace Sys2Proof.Machine

variable (s : State) (c : PCore) (op : BitVec 6) (w : BitVec 26)

/-- A fetch that finds its instruction: what it has checked. -/
theorem fetch_ok {x : Inst} (h : s.fetch c op w = .ok x) :
    s.runs = true ∧ (s.core c).seq.brkDrain = false ∧ (s.core c).seq.brkHalt = false ∧ (s.core c).seq.mode = .run ∧
      (s.core c).seq.inst = some x ∧ (s.core c).seq.pc.toNat < x.klen / 4 ∧
      s.kernelWord c x (s.core c).seq.pc.toNat = seqWord op w := by
  unfold State.fetch at h
  simp only at h
  split at h
  · cases h
  · rename_i h0
    simp only [Bool.or_eq_true, Bool.not_eq_true', not_or, Bool.not_eq_false, Bool.not_eq_true] at h0
    split at h
    · rename_i hm hi
      split at h
      · cases h
      · split at h
        · cases h
        · rename_i hp
          split at h
          · cases h
          · split at h
            · cases h
            · split at h
              · rename_i hw
                cases h
                exact ⟨h0.1.1, h0.1.2, h0.2, hm, hi, by omega, hw⟩
              · cases h
    · cases h

/-- An instruction that is the next to issue runs its body. -/
theorem issue_of_issues {x : Inst} (h : s.issues c op w x) (body : Inst → State → State) : s.issue c op w body = body x s := by
  unfold State.issue; rw [h.2]

/-- An instruction that is not the next to issue changes nothing. -/
theorem issue_of_held (h : s.fetch c op w = .held) (body : Inst → State → State) : s.issue c op w body = s := by
  unfold State.issue; rw [h]

/-- A fetch that faults ends the instance's context with its code. -/
theorem issue_of_bad {x : Inst} {code : W16} (h : s.fetch c op w = .bad x code) (body : Inst → State → State) :
    s.issue c op w body = s.fault c x.slot code := by unfold State.issue; rw [h]

/-- With its registers ready and no fault an instruction goes on with the sequencer as it stands. -/
theorem scalar_of_ready (x : Inst) (regs : List Nat) (go : Seq → State) (h : s.regsReady c regs) :
    s.scalar c x none regs go = go (s.core c).seq := by
  have : (regs.any fun r => (s.core c).seq.pend.contains r) = false := by
    simp only [List.any_eq_false, List.contains_iff_mem]
    exact fun r hr => h r hr
  unfold State.scalar; simp only [this, Bool.false_eq_true, if_false]

/-- A field fault ends the instruction. -/
@[simp] theorem scalar_of_fault (x : Inst) (code : W16) (regs : List Nat) (go : Seq → State) :
    s.scalar c x (some code) regs go = s.fault c x.slot code := rfl

/-- An effect f on the sequencer and the step to a word are the state of `afterSeq`. -/
theorem goOn_modSeq (f : Seq → Seq) (pc : Nat) : (s.modSeq c f).goOn c pc = s.afterSeq c pc f := by
  simp [State.goOn, State.countCore, State.modSeq, State.modCore, State.afterSeq, Seq.issued, State.core]

/-- The step to a word alone. -/
theorem goOn_eq (pc : Nat) : s.goOn c pc = s.afterSeq c pc id := by
  have := goOn_modSeq s c id pc
  rwa [modSeq_id] at this

/-- The move to the next word after an effect that leaves the PC. -/
theorem goNext_modSeq (f : Seq → Seq) (hf : (f (s.core c).seq).pc = (s.core c).seq.pc) (h : s.nextPc c < 16384) :
    (s.modSeq c f).goNext c = s.afterSeq c (s.nextPc c) f := by
  have e : ((s.modSeq c f).core c).seq = f (s.core c).seq := by simp
  have h' : ¬ (s.core c).seq.pc.toNat + 1 ≥ 16384 := by unfold State.nextPc at h; omega
  unfold State.goNext
  simp only [e, hf, ge_iff_le, h', if_false, State.nextPc]
  exact goOn_modSeq s c f _

/-- The move to the next word alone. -/
theorem goNext_eq (h : s.nextPc c < 16384) : s.goNext c = s.afterSeq c (s.nextPc c) id := by
  have := goNext_modSeq s c id rfl h
  rwa [modSeq_id] at this

/-- A jump inside the kernel section. -/
theorem jump_of_inside (x : Inst) (t : Nat) (f : Seq → Seq) (h : t < x.klen / 4) :
    (s.jump c x (t : Int) fun s => s.modSeq c f) = s.afterSeq c t f := by
  have h1 : ¬ ((t : Int) < 0) := by omega
  have h2 : ¬ ((x.klen / 4 : Nat) ≤ (t : Int)) := by omega
  unfold State.jump
  simp only [ge_iff_le, h1, h2, decide_false, Bool.or_self, Bool.false_eq_true, if_false, Int.toNat_natCast]
  exact goOn_modSeq s c f t

/-- A jump outside the kernel section is PC_RANGE (R219). -/
theorem jump_of_outside (x : Inst) (t : Int) (body : State → State) (h : t < 0 ∨ (x.klen / 4 : Nat) ≤ t) :
    s.jump c x t body = s.fault c x.slot 0x4031 := by
  unfold State.jump
  have : (decide (t < 0) || decide (t ≥ (x.klen / 4 : Nat))) = true := by simpa using h
  rw [if_pos this]

/-- A command whose effect is an `afterSeq` of the state answers it. -/
theorem run_afterSeq (pc : Nat) (f : Seq → Seq) (g : State → State) (h : s.wrap.hold = false) (hg : g s = s.afterSeq c pc f) :
    s.run g = .next (s.afterSeq c pc f) := by
  rw [run_eq, act_eq s g h (by rw [hg]; rfl) (by rw [hg]; rfl) (by rw [hg]; rfl) (by rw [hg]; rfl), hg]

/-- An instruction that writes one general register: its next state, where its fields are legal and its registers ready. -/
theorem toReg_next {x : Inst} (regs : List Nat) (d : Nat) (f : Seq → W64) (h : s.issues c op w x) (hr : s.regsReady c (d :: regs))
    (hp : s.nextPc c < 16384) :
    (s.run fun s => s.toReg c op w none regs d f) = .next (s.afterSeq c (s.nextPc c) fun q => q.setS d (f (s.core c).seq)) := by
  apply run_afterSeq s c _ _ _ h.1
  unfold State.toReg
  rw [issue_of_issues s c op w h, scalar_of_ready s c x _ _ hr]
  exact goNext_modSeq s c _ rfl hp

/-- What the next state of an `afterSeq` holds beside its sequencer. -/
theorem afterSeq_core (pc : Nat) (f : Seq → Seq) (k : PCore) : (s.afterSeq c pc f).core k =
    if k = c then { s.core c with
      seq := (f (s.core c).seq).issued pc
      counters := (s.core c).counters.put 19 ((s.core c).counters.get 19 + 1) } else s.core k := by
  unfold State.afterSeq State.core; simp

@[simp] theorem afterSeq_hostMem (pc : Nat) (f : Seq → Seq) : (s.afterSeq c pc f).hostMem = s.hostMem := rfl
@[simp] theorem afterSeq_devMem (pc : Nat) (f : Seq → Seq) : (s.afterSeq c pc f).devMem = s.devMem := rfl
@[simp] theorem afterSeq_ctxs (pc : Nat) (f : Seq → Seq) : (s.afterSeq c pc f).ctxs = s.ctxs := rfl
@[simp] theorem afterSeq_mkt (pc : Nat) (f : Seq → Seq) : (s.afterSeq c pc f).mkt = s.mkt := rfl

end Sys2Proof.Machine
end

