-- ==== Sys2Proof/Laws/Tables.lean ====
section
/-! SUPPORT. Sys2Proof/Laws/Tables.lean: what a sparse map finds after an insertion and an erasure. -/

namespace Sys2Proof

/-- A lookup after an insertion. -/
theorem find_insert {α : Type} (k j : Nat) (v : α) : ∀ m : KMap α, (m.insert k v).find j = if j = k then some v else m.find j
  | [] => by
    by_cases h : j = k
    · simp [KMap.insert, KMap.find, h]
    · simp [KMap.insert, KMap.find, h, Ne.symm h]
  | (i, w) :: t => by
    have ih := find_insert k j v t
    simp only [KMap.insert]
    split
    · rename_i e
      subst e
      by_cases h : j = i
      · simp [KMap.find, h]
      · simp [KMap.find, h, Ne.symm h]
    · rename_i e
      split
      · by_cases h : j = k
        · simp [KMap.find, h]
        · simp [KMap.find, h, Ne.symm h]
      · by_cases h : j = k
        · subst h
          simp only [KMap.find, e, if_false, if_true]
          simpa using ih
        · simp only [KMap.find, ih, h, if_false]

/-- A lookup after an erasure. -/
theorem find_erase {α : Type} (k j : Nat) : ∀ m : KMap α, (m.erase k).find j = if j = k then none else m.find j
  | [] => by simp [KMap.erase, KMap.find]
  | (i, w) :: t => by
    have ih := find_erase k j t
    unfold KMap.erase at ih ⊢
    rw [List.filter_cons]
    by_cases e : i = k
    · subst e
      simp only [bne_self_eq_false, Bool.false_eq_true, if_false, ih]
      by_cases h : j = i
      · simp [h]
      · simp [KMap.find, h, Ne.symm h]
    · simp only [bne_iff_ne, ne_eq, e, not_false_eq_true, if_true, KMap.find, ih]
      by_cases h : i = j
      · subst h; simp [e]
      · simp [h]

end Sys2Proof
end

