-- ==== Sys2Proof/Laws/Units.lean ====
section
/-! SUPPORT. Sys2Proof/Laws/Units.lean: the reset state's memories, and what the shared operations of the descriptors and of the
management slave port do. -/

namespace Sys2Proof.Machine

variable (s : State)

/-! ### Reset -/

@[simp] theorem reset_ctx (i : Slot) : State.reset.ctx i = {} := tab_get_fill 96 _ i
@[simp] theorem reset_core (c : PCore) : State.reset.core c = {} := tab_get_fill 72 _ c
@[simp] theorem reset_pit (p : Pitch) : State.reset.pit p = {} := tab_get_fill 16 _ p
@[simp] theorem reset_port (p : LPort) : State.reset.port p = {} := tab_get_fill 4 _ p

/-- Every memory is in canonical form after a cold reset. -/
theorem reset_memoriesWf : State.reset.memoriesWf = true := by
  simp only [State.memoriesWf, Bool.and_eq_true, List.all_eq_true]
  refine ⟨⟨rfl, rfl⟩, fun c _ => ?_⟩
  have : State.reset.cores.get c = {} := reset_core c
  rw [this]; rfl

/-! ### Memories of a core -/

/-- The scratch memories of a core in canonical form, one by one. -/
theorem memoriesWf_mem (k : Core) (h : k.memoriesWf = true) (m : Nat) (hm : m < 5) : (k.mem m).wf = true := by
  simp only [Core.memoriesWf, Bool.and_eq_true] at h
  obtain ⟨⟨⟨⟨⟨_, h1⟩, h2⟩, h3⟩, h4⟩, h5⟩ := h
  have : m = 0 ∨ m = 1 ∨ m = 2 ∨ m = 3 ∨ m = 4 := by omega
  rcases this with rfl | rfl | rfl | rfl | rfl <;> assumption

/-! ### Descriptors -/

/-- A descriptor row where nothing can be taken from its ring: nothing happens. -/
theorem descRow_none (r : Ring) (row : Nat) (l : Option (List SlotState)) (arg : List Byte → State → Slot → Bool)
    (body : List Byte → CompRef → Slot → State → State) (h : s.takeDesc r = none) : s.descRow r row l arg body = s := by
  unfold State.descRow; rw [h]

/-- A descriptor of its row that passes the checks is handled. -/
theorem descRow_body (r : Ring) (row : Nat) (l : Option (List SlotState)) (arg : List Byte → State → Slot → Bool)
    (body : List Byte → CompRef → Slot → State → State) (d : List Byte) (c : CompRef) (s₁ : State) (h : s.takes r row d c s₁)
    (hc : s₁.descCheck r d l (arg d) = none) : s.descRow r row l arg body = body d c ((dSlot d).getD 0) s₁ := by
  obtain ⟨_, h1, h2, _, _⟩ := h
  unfold State.descRow
  simp only [h1, h2, ne_eq, not_true_eq_false, if_false, hc]

/-- The checks of a descriptor that names a slot in one of the states of its row. -/
theorem descCheck_slot (r : Ring) (row : Nat) (d : List Byte) (c : CompRef) (s₁ : State) (h : s.takes r row d c s₁)
    (l : List SlotState) (arg : State → Slot → Bool) (i : Slot) (hi : dSlot d = some i) (hs : (s₁.ctx i).state ∈ l) :
    s₁.descCheck r d (some l) arg = if arg s₁ i then none else some 0x8102 := by
  obtain ⟨_, _, _, h3, h4⟩ := h
  unfold State.descCheck
  simp only [h3, h4, hi, Bool.false_eq_true, if_false]
  simp [hs]

/-- A descriptor is taken with its completion's ring and index, and the taking leaves every context's own fields but its ring. -/
theorem takeDesc_comp (r : Ring) (d : List Byte) (c : CompRef) (s₁ : State) (h : s.takeDesc r = some (d, c, s₁)) :
    c = s.refOf r (s.ringOf r).cqTail (s.ringOf r).head d ∧ d = s.descAt r (s.ringOf r).head := by
  unfold State.takeDesc at h
  simp only at h
  split at h
  · cases h
  · cases h; exact ⟨rfl, rfl⟩

/-! ### The management slave port -/

/-- In stage S0 nothing is served (R385). -/
theorem portWrite_stage0 (off : Nat) (v : W32) (h : s.cfg.stage = 0) : s.portWrite off v = s := by simp [State.portWrite, h]

/-- A write where no register lies sets the error flag alone (R406). -/
theorem portWrite_absent (off : Nat) (v : W32) (h : s.cfg.stage ≠ 0) (hw : s.regWrite off v = .absent) :
    s.portWrite off v = { s with mgmt := { s.mgmt with err := true } } := by simp [State.portWrite, h, hw]

/-- A write of a register that the port takes, with the state t that the register's own rule gives. -/
theorem portWrite_done (off : Nat) (v : W32) (t : State) (h : s.portOpen) (hw : s.regWrite off v = .done t) :
    s.portWrite off v = { t with mgmt := { t.mgmt with err := false } } := by
  obtain ⟨_, h1, h2⟩ := h
  simp [State.portWrite, h1, hw, State.writeOpen, h2, Wr.after]

/-- A write that a register ignores, with the state t that a report of it leaves. -/
theorem portWrite_ignored (off : Nat) (v : W32) (t : State) (h : s.portOpen) (hw : s.regWrite off v = .ignored t) :
    s.portWrite off v = { t with mgmt := { t.mgmt with err := false } } := by
  obtain ⟨_, h1, h2⟩ := h
  simp [State.portWrite, h1, hw, State.writeOpen, h2, Wr.after]

/-- Before start-up is over every other register is as it was (R385). -/
theorem portWrite_closed (off : Nat) (v : W32) (h : s.cfg.stage ≠ 0) (hd : s.writeOpen off = false) (hw : s.regWrite off v ≠ .absent) :
    s.portWrite off v = s.portOk := by
  unfold State.portWrite State.portOk
  simp only [h, if_false, hd, Bool.false_eq_true]

end Sys2Proof.Machine
end

