-- ==== Sys2Proof/Laws/Writes.lean ====
section
/-! SUPPORT. Sys2Proof/Laws/Writes.lean: what a write to off-block memory does to memory, beat by beat and as a whole. -/

namespace Sys2Proof.Machine

theorem writeBytes_append : ∀ (l r : List Byte) (m : Memory) (a : Nat),
    m.writeBytes a (l ++ r) = (m.writeBytes a l).writeBytes (a + l.length) r
  | [], _, _, _ => rfl
  | b :: l, r, m, a => by
    simp only [List.cons_append, Memory.writeBytes, writeBytes_append l r, List.length_cons]
    congr 1
    omega

/-- The beats of a write, put in place one after the other, are the write. -/
theorem beats_write (n : Nat) (hn : 0 < n) : ∀ (f addr : Nat) (bs : List Byte) (m : Memory), bs.length + addr % n ≤ f * n →
    (beatsOf n f addr bs).foldl (fun m b => m.writeBytes b.1 b.2) m = m.writeBytes addr bs
  | 0, addr, bs, m, h => by
    have : bs = [] := List.eq_nil_of_length_eq_zero (by omega)
    subst this
    rfl
  | f + 1, addr, bs, m, h => by
    have hlt := Nat.mod_lt addr hn
    unfold beatsOf
    split
    · rename_i he
      rw [List.isEmpty_iff.mp he]
      rfl
    · simp only [List.foldl_cons]
      have hmod : (addr + (n - addr % n)) % n = 0 := by
        have e : addr + (n - addr % n) = n * (addr / n + 1) := by
          have := Nat.div_add_mod addr n
          rw [Nat.mul_add, Nat.mul_one]
          omega
        rw [e, Nat.mul_mod_right]
      rw [Nat.succ_mul] at h
      rw [beats_write n hn f (addr + (n - addr % n)) (bs.drop (n - addr % n)) _ (by rw [hmod, List.length_drop]; omega)]
      by_cases hk : bs.length ≤ n - addr % n
      · rw [List.drop_eq_nil_of_le hk, List.take_of_length_le hk]
        rfl
      · have := writeBytes_append (bs.take (n - addr % n)) (bs.drop (n - addr % n)) m addr
        rw [List.take_append_drop, List.length_take, Nat.min_eq_left (by omega)] at this
        exact this.symm

/-- No beat is empty. -/
theorem beats_ne (n : Nat) (hn : 0 < n) : ∀ (f addr : Nat) (bs : List Byte), ∀ b ∈ beatsOf n f addr bs, b.2 ≠ []
  | 0, _, _, _, h => by cases h
  | f + 1, addr, bs, b, h => by
    have hlt := Nat.mod_lt addr hn
    unfold beatsOf at h
    split at h
    · cases h
    · rename_i he
      rcases List.mem_cons.mp h with rfl | h
      · intro h0
        cases bs with
        | nil => exact he rfl
        | cons x t =>
          obtain ⟨k, hk⟩ : ∃ k, n - addr % n = k + 1 := ⟨n - addr % n - 1, by omega⟩
          simp [hk] at h0
      · exact beats_ne n hn f _ _ b h

variable (s : State)

theorem hang_keeps (unit : W16) (sub ev slot : Nat) (d : W64) :
    (s.hang unit sub ev slot d).devMem = s.devMem ∧ (s.hang unit sub ev slot d).hostMem = s.hostMem ∧
    (s.hang unit sub ev slot d).pwr = s.pwr := by
  unfold State.hang
  split <;> exact ⟨rfl, rfl, rfl⟩

theorem countPort_keeps (p : Fin 17) (w : Bool) (n : Nat) :
    (s.countPort p w n).pwr = s.pwr ∧ (s.countPort p w n).hostMem = s.hostMem ∧ (s.countPort p w n).devMem = s.devMem := by
  unfold State.countPort State.count
  split <;> split <;> exact ⟨rfl, rfl, rfl⟩

/-- A write with bytes, while the ports are open, puts them in place and changes nothing else of off-block memory. -/
theorem outWrite_keeps (w : OutWrite) (hl : s.pwr.lost = false) (hb : w.data ≠ []) :
    (s.outWrite w).pwr = s.pwr ∧ (s.outWrite w).hostMem = (s.place w).hostMem ∧ (s.outWrite w).devMem = (s.place w).devMem := by
  have he : w.data.isEmpty = false := by
    cases hx : w.data with
    | nil => exact absurd hx hb
    | cons => rfl
  have hp : (s.place w).pwr = s.pwr := by
    unfold State.place
    split <;> rfl
  unfold State.outWrite State.putWrite
  rw [if_neg (by simp [hl]), if_neg (by simp [he])]
  simp only
  split
  · exact ⟨(hang_keeps _ _ _ _ _ _).2.2.trans hp, (hang_keeps _ _ _ _ _ _).2.1, (hang_keeps _ _ _ _ _ _).1⟩
  · exact ⟨hp, rfl, rfl⟩

/-- One beat is put in place, and nothing else of off-block memory changes. -/
theorem beatOut_keeps (p : Fin 17) (o : WOwner) (b : Nat × List Byte) (hl : s.pwr.lost = false) (hb : b.2 ≠ []) :
    (s.beatOut p o b).pwr = s.pwr ∧
    (s.beatOut p o b).hostMem = (if p = 16 then s.hostMem.writeBytes b.1 b.2 else s.hostMem) ∧
    (s.beatOut p o b).devMem = (if p = 16 then s.devMem else s.devMem.writeBytes b.1 b.2) := by
  obtain ⟨h1, h2, h3⟩ := countPort_keeps s p true b.2.length
  obtain ⟨k1, k2, k3⟩ := outWrite_keeps (s.countPort p true b.2.length)
    { port := p, tag := 0, addr := b.1, owner := o, pasid := s.pasidOf o.who, len := b.2.length, data := b.2 } (by rw [h1]; exact hl) hb
  refine ⟨k1.trans h1, k2.trans ?_, k3.trans ?_⟩ <;> unfold State.place <;> split <;> simp only [h2, h3]

/-- A write to device memory while the ports are open: its bytes are in place there, and host memory stands. -/
theorem devWrite_keeps (a : Nat) (bs : List Byte) (o : WOwner) (hl : s.pwr.lost = false) :
    (s.devWrite a bs o).pwr = s.pwr ∧ (s.devWrite a bs o).hostMem = s.hostMem ∧ (s.devWrite a bs o).devMem = s.devMem.writeBytes a bs := by
  have go : ∀ (l : List (Nat × List Byte)) (s : State), s.pwr.lost = false → (∀ b ∈ l, b.2 ≠ []) →
      let t := l.foldl (fun s b => s.beatOut (memPort b.1) o b) s
      t.pwr = s.pwr ∧ t.hostMem = s.hostMem ∧ t.devMem = l.foldl (fun m b => m.writeBytes b.1 b.2) s.devMem := by
    intro l
    induction l with
    | nil => exact fun s _ _ => ⟨rfl, rfl, rfl⟩
    | cons b l ih =>
      intro s hl hb
      have hp : memPort b.1 ≠ 16 := by
        intro h
        have := congrArg Fin.val h
        simp only [memPort] at this
        have h16 : ((16 : Fin 17) : Nat) = 16 := rfl
        omega
      obtain ⟨k1, k2, k3⟩ := beatOut_keeps s (memPort b.1) o b hl (hb b (List.mem_cons_self ..))
      obtain ⟨j1, j2, j3⟩ := ih _ (by rw [k1]; exact hl) (fun c hc => hb c (List.mem_cons_of_mem _ hc))
      simp only [hp, if_false] at k2 k3
      exact ⟨j1.trans k1, j2.trans k2, by rw [List.foldl_cons, List.foldl_cons, ← k3]; exact j3⟩
  obtain ⟨h1, h2, h3⟩ := go (writeBeats false a bs) s hl (beats_ne 256 (by decide) _ _ _)
  exact ⟨h1, h2, h3.trans (beats_write 256 (by decide) _ _ _ _ (by
    have := Nat.mod_lt a (show 0 < 256 by decide)
    omega))⟩

/-- A write to host memory while the ports are open: its bytes are in place there, and device memory stands. -/
theorem hostWrite_keeps (a : Nat) (bs : List Byte) (o : WOwner) (hl : s.pwr.lost = false) :
    (s.hostWrite a bs o).pwr = s.pwr ∧ (s.hostWrite a bs o).devMem = s.devMem ∧ (s.hostWrite a bs o).hostMem = s.hostMem.writeBytes a bs := by
  have go : ∀ (l : List (Nat × List Byte)) (s : State), s.pwr.lost = false → (∀ b ∈ l, b.2 ≠ []) →
      let t := l.foldl (fun s b => s.beatOut 16 o b) s
      t.pwr = s.pwr ∧ t.devMem = s.devMem ∧ t.hostMem = l.foldl (fun m b => m.writeBytes b.1 b.2) s.hostMem := by
    intro l
    induction l with
    | nil => exact fun s _ _ => ⟨rfl, rfl, rfl⟩
    | cons b l ih =>
      intro s hl hb
      obtain ⟨k1, k2, k3⟩ := beatOut_keeps s 16 o b hl (hb b (List.mem_cons_self ..))
      obtain ⟨j1, j2, j3⟩ := ih _ (by rw [k1]; exact hl) (fun c hc => hb c (List.mem_cons_of_mem _ hc))
      simp only [if_true] at k2 k3
      exact ⟨j1.trans k1, j2.trans k3, by rw [List.foldl_cons, List.foldl_cons, ← k2]; exact j3⟩
  obtain ⟨h1, h2, h3⟩ := go (writeBeats true a bs) s hl (beats_ne 128 (by decide) _ _ _)
  exact ⟨h1, h2, h3.trans (beats_write 128 (by decide) _ _ _ _ (by
    have := Nat.mod_lt a (show 0 < 128 by decide)
    omega))⟩

end Sys2Proof.Machine
end

