-- ==== Sys2Proof/Tests/Slice0.lean ====
section
/-! SUPPORT. Sys2Proof/Tests/Slice0.lean: the ill-formed commands that WellFormed refuses, instruction words written out from the spec's
encodings, and for the statements of Certificates/Slice0 concrete states and operands that meet their hypotheses. -/

namespace Sys2Proof.Tests

set_option Elab.async false

open Sys2Proof.Machine

/-! ### Ill-formed commands -/

theorem test_beat_of_seven_words_is_ill_formed :
    Instr.wellFormed (.memReadBeat { port := 16, who := .supervisor, addr := 0, data := List.replicate 7 0, chk := [], err := 0 }) = false := by decide
theorem test_beat_off_its_size_is_ill_formed :
    Instr.wellFormed (.memReadBeat { port := 0, who := .supervisor, addr := 128, data := List.replicate 16 0, chk := List.replicate 16 0, err := 0 }) = false := by decide
theorem test_beat_without_check_words_is_ill_formed :
    Instr.wellFormed (.memReadBeat { port := 0, who := .supervisor, addr := 256, data := List.replicate 16 0, chk := [], err := 0 }) = false := by decide
theorem test_group_of_fifteen_slots_is_ill_formed :
    Instr.wellFormed (.groupReceive 0 { g := { hdr := 0, slots := List.replicate 15 0, crc := 0 }, place := 0, errors := [[]], frac := 0 }) = false := by decide
theorem test_group_past_a_data_field_is_ill_formed :
    Instr.wellFormed (.groupReceive 0 { g := { hdr := 0, slots := List.replicate 16 0, crc := 0 }, place := 5140, errors := [[]], frac := 0 }) = false := by decide
theorem test_three_codewords_are_ill_formed :
    Instr.wellFormed (.groupReceive 0 { g := { hdr := 0, slots := List.replicate 16 0, crc := 0 }, place := 0, errors := [[], [], []], frac := 0 }) = false := by decide
theorem test_symbol_544_is_ill_formed :
    Instr.wellFormed (.groupReceive 0 { g := { hdr := 0, slots := List.replicate 16 0, crc := 0 }, place := 0, errors := [[(544, 1)]], frac := 0 }) = false := by decide
theorem test_short_fuse_image_is_ill_formed : Instr.wellFormed (.fuseRead [0]) = false := by decide
theorem test_fifteen_sensors_are_ill_formed : Instr.wellFormed (.thermalReading (List.replicate 15 0)) = false := by decide
theorem test_short_selftest_is_ill_formed : Instr.wellFormed (.selftest 0 [0]) = false := by decide
theorem test_queue_kind_9_is_ill_formed : Instr.wellFormed (.queueStale { kind := 9, index := 0, owner := none }) = false := by decide
theorem test_upset_queue_kind_9_is_ill_formed : Instr.wellFormed (.dispatchSelect (some { kind := 9, index := 0, owner := none })) = false := by decide
theorem test_word_outside_bank_is_well_formed_bound : Instr.wellFormed (.scrub (.scratch 0 0 0x7FFF) 0) = true := by decide

/-! ### Instruction words written out from Tables 10.3, 10.4, 10.8, 10.11, 10.13 -/

/-- ALU add s1, s2, s3: opcode 0x01, sd 1, sa 2, sb 3, FN 0. -/
theorem test_word_alu : decodeSeqWord 0 0b000001_00001_00010_00011_00000_000000 = some (.alu 0 0b00001_00010_00011_00000_000000) := by decide
/-- ADDI s1, s2, -1: opcode 0x02. -/
theorem test_word_addi : decodeSeqWord 5 0b000010_00001_00010_1111111111111111 = some (.addi 5 0b00001_00010_1111111111111111) := by decide
/-- BEQ s1, s2, +3: opcode 0x08. -/
theorem test_word_beq : decodeSeqWord 0 0b001000_00001_00010_0000000000000011 = some (.beq 0 0b00001_00010_0000000000000011) := by decide
/-- JR s0, s1: opcode 0x0F. -/
theorem test_word_jr : decodeSeqWord 0 0b001111_00000_00001_0000000000000000 = some (.jr 0 0b00000_00001_0000000000000000) := by decide
/-- SLD s1, 8 bytes at IMM 16 of a2: opcode 0x10. -/
theorem test_word_sld : decodeSeqWord 0 0b010000_00001_0010_00000000000010000 = some (.sld 0 0b00001_0010_00000000000010000) := by decide
/-- GETS s4, TIME: opcode 0x12, IMM 4. -/
theorem test_word_gets : decodeSeqWord 0 0b010010_00100_00000_0000000000000100 = some (.gets 0 0b00100_00000_0000000000000100) := by decide
/-- AADD a1, a2, -1: opcode 0x16. -/
theorem test_word_aadd : decodeSeqWord 0 0b010110_0001_0010_00000_1111111111111 = some (.aadd 0 0b0001_0010_00000_1111111111111) := by decide
/-- MMUL a3, a2, a0 with the mode pair 1: opcode 0x21. -/
theorem test_word_mmul : decodeSeqWord 0 0b100001_0011_0010_0000_0001_0000000000 = some (.mmul 0 0b0011_0010_0000_0001_0000000000) := by decide
/-- VOP with FN 13: opcode 0x24. -/
theorem test_word_vop : decodeSeqWord 0 0b100100_0001_0010_0011_0001_0000001101 = some (.vop 0 0b0001_0010_0011_0001_0000001101) := by decide
/-- MOVE a1, a2: opcode 0x2C. -/
theorem test_word_move : decodeSeqWord 0 0b101100_0001_0010_0000_0001_0000000000 = some (.move 0 0b0001_0010_0000_0001_0000000000) := by decide
/-- SEND of a2: opcode 0x34. -/
theorem test_word_send : decodeSeqWord 71 0b110100_0000_0010_0000_0001_0000000000 = some (.send 71 0b0000_0010_0000_0001_0000000000) := by decide
/-- POST of output 2 with a reference in a3: opcode 0x3A, bit 12 REF. -/
theorem test_word_post : decodeSeqWord 0 0b111010_0010_0011_00000_1_0_00000000000 = some (.post 0 0b0010_0011_00000_1_0_00000000000) := by decide
/-- DONE: opcode 0x3B. -/
theorem test_word_done : decodeSeqWord 0 0b111011_00000000000000000000000000 = some (.done 0 0) := by decide
/-- Opcode 0x3F, which no table assigns (R218, R234). -/
theorem test_word_unassigned : decodeSeqWord 0 0b111111_00000000000000000000000000 = none := by decide
/-- A word of zeros is no instruction. -/
theorem test_word_zero : decodeSeqWord 0 0 = none := by decide

/-! ### Small states -/

/-- A configured block in service: start-up over, supplies and loops good. -/
def up : State := { State.reset with
  cfg := { stage := 7, done := true, domains := Tab.fill 12 ⟨true, true, true, true⟩ }
  pwr := { tlock := true, flock := true, alock := true, aryPg := true, memPg := true } }

/-- An instance of slot 0 whose kernel of n words begins at instruction memory address 0. -/
def inst0 (n : Nat) : Inst :=
  { slot := 0, idx := 0, task := 0, gen := 1, level := 0, layer := 0, atomic := 0, ord := 0, nout := 1, npred := 4, rerun := false
    recomp := false, base := 0, klen := 4 * n }

/-- Core 0 about to issue a word that stands at address 0 of a kernel of n words. -/
def atWord (v : W32) (n : Nat) (f : Seq → Seq) : State := up.modCore 0 fun k => { k with
  lcore := some 0, imem := Memory.writeBytes [] 0 (leBytes 4 v.toNat), seq := f { mode := .run, inst := some (inst0 n) } }

/-- Operand bits of formats R, I and B: two register fields and the low 16 bits. -/
def opsR (d a imm : Nat) : BitVec 26 := BitVec.ofNat 26 (d * 2 ^ 21 + a * 2 ^ 16 + imm)

/-- The instruction is the next to issue, its registers are ready, and a word follows it. -/
def Ready (s : State) (op : BitVec 6) (w : BitVec 26) (n : Nat) (regs : List Nat) : Prop :=
  s.issues 0 op w (inst0 n) ∧ s.regsReady 0 regs ∧ s.nextPc 0 < 16384

/-- Ready from the word alone. -/
def Ready0 (op : BitVec 6) (w : BitVec 26) (regs : List Nat) : Prop := Ready (atWord (seqWord op w) 4 id) op w 4 regs

/-! ### Sequencer instructions -/

theorem test_wit_alu : ∀ e ∈ aluTable, Ready0 0x01 (opsR 1 2 (3 * 2 ^ 11 + e.1)) [1, 2, 3] ∧
    fld (opsR 1 2 (3 * 2 ^ 11 + e.1)) 10 6 = 0 ∧ fld (opsR 1 2 (3 * 2 ^ 11 + e.1)) 5 0 = e.1 := by
  unfold Ready0 Ready State.issues State.regsReady State.nextPc; decide +kernel

theorem test_wit_immediates : Ready0 0x02 (opsR 1 2 0xFFFF) [1, 2] ∧ Ready0 0x03 (opsR 31 0 0x8000) [31, 0] ∧ Ready0 0x04 (opsR 0 31 0xFFFF) [0, 31] ∧
    Ready0 0x06 (opsR 1 0 0x8000) [1] ∧ Ready0 0x15 (opsR 1 15 0) [1] ∧ Ready0 0x07 (opsR 1 3 0xFFFF) [1] := by
  unfold Ready0 Ready State.issues State.regsReady State.nextPc; decide +kernel

theorem test_wit_shifts : Ready0 0x05 (opsR 1 2 63) [1, 2] ∧ Ready0 0x05 (opsR 1 2 0x13F) [1, 2] ∧ Ready0 0x05 (opsR 1 2 0x23F) [1, 2] ∧
    fld (opsR 1 2 63) 9 8 = 0 ∧ fld (opsR 1 2 0x13F) 9 8 = 1 ∧ fld (opsR 1 2 0x23F) 9 8 = 2 ∧ fld (opsR 1 2 0x23F) 15 10 = 0 ∧
    fld (opsR 1 2 0x23F) 7 6 = 0 := by
  unfold Ready0 Ready State.issues State.regsReady State.nextPc; decide +kernel

/-- A branch of s1 and s2 by 3 words at the first of n words, with their values. -/
def atBranch (op : BitVec 6) (n : Nat) (u v : W64) : State := atWord (seqWord op (opsR 1 2 3)) n fun q => (q.setS 1 u).setS 2 v

/-- Each branch at a word with another after it; s1 and s2 hold values for which it is taken, or is not. -/
theorem test_wit_branches : ∀ op ∈ [(0x08 : BitVec 6), 0x09, 0x0A, 0x0B, 0x0C, 0x0D], Ready0 op (opsR 1 2 3) [1, 2] := by
  unfold Ready0 Ready State.issues State.regsReady State.nextPc; decide +kernel

theorem test_wit_branch_values : Ready (atBranch 0x0A 4 (-1) 0) 0x0A (opsR 1 2 3) 4 [1, 2] ∧
    ((atBranch 0x0A 4 (-1) 0).core 0).seq.sr 1 = -1 ∧ ((atBranch 0x0A 4 (-1) 0).core 0).seq.sr 2 = 0 := by
  unfold Ready State.issues State.regsReady State.nextPc; decide +kernel

/-- Values for which each condition of Table 10.4 holds, and values for which it does not. -/
theorem test_wit_branch_conditions : ∀ b ∈ branchTable, (∃ u v, b.2.2 u v) ∧ ∃ u v, ¬ b.2.2 u v := by
  intro b hb
  simp only [branchTable, List.mem_cons, List.not_mem_nil, or_false] at hb
  rcases hb with rfl | rfl | rfl | rfl | rfl | rfl
  · exact ⟨⟨0, 0, rfl⟩, 0, 1, by decide⟩
  · exact ⟨⟨0, 1, by decide⟩, 0, 0, by decide⟩
  · exact ⟨⟨-1, 0, by decide⟩, 0, -1, by decide⟩
  · exact ⟨⟨0, -1, by decide⟩, -1, 0, by decide⟩
  · exact ⟨⟨0, -1, by decide⟩, -1, 0, by decide⟩
  · exact ⟨⟨-1, 0, by decide⟩, 0, -1, by decide⟩

theorem test_wit_branch_targets : ((3 : Nat) : Int) = (((atBranch 0x08 4 0 0).core 0).seq.pc.toNat : Int) + ((opsR 1 2 3).extractLsb' 0 16 : BitVec 16).toInt ∧
    3 < (inst0 4).klen / 4 ∧ ¬ 3 < (inst0 3).klen / 4 := by decide +kernel

theorem test_wit_jumps : Ready0 0x0E (opsR 1 0 3) [1] ∧ Ready0 0x0F (opsR 1 2 0) [1, 2] ∧ fld (opsR 1 0 3) 20 16 = 0 ∧ fld (opsR 1 2 0) 15 0 = 0 ∧
    Ready (atWord (seqWord 0x0F (opsR 1 2 0)) 4 fun q => q.setS 2 4) 0x0F (opsR 1 2 0) 4 [1, 2] ∧ Ready (atWord (seqWord 0x0E (opsR 1 0 3)) 3 id) 0x0E (opsR 1 0 3) 3 [1] := by
  unfold Ready0 Ready State.issues State.regsReady State.nextPc; decide +kernel

/-- A fetch past the end of a kernel of no words, and of a word that is no instruction. -/
theorem test_wit_fetch_faults : ((atWord 0 0 id).core 0).seq.inst = some (inst0 0) ∧ (inst0 0).klen / 4 ≤ ((atWord 0 0 id).core 0).seq.pc.toNat ∧
    ((atWord 0 4 id).core 0).seq.pc.toNat < (inst0 4).klen / 4 ∧ (atWord 0 4 id).brkAt (inst0 4) 0 = false ∧
    decodeSeqWord 0 ((atWord 0 4 id).kernelWord 0 (inst0 4) 0) = none ∧ (atWord 0 4 id).runs = true := by decide +kernel

/-- Another word stands at the PC. -/
theorem test_wit_held : (atWord (seqWord 0x02 0) 4 id).fetch 0 0x03 0 = .held ∧ up.fetch 0 0x02 0 = .held := by decide +kernel

theorem test_wit_special : ∀ imm ∈ [0, 1, 3, 4, 5, 6, 7, 8, 9], Ready0 0x12 (opsR 1 0 imm) [1, 0] ∧ fld (opsR 1 0 imm) 15 0 = imm ∧ fld (opsR 1 0 imm) 20 16 = 0 := by
  unfold Ready0 Ready State.issues State.regsReady State.nextPc; decide +kernel

/-- FMT of the last layer of an image of two layers, and the image core of a core in a pitch. -/
theorem test_wit_special_fmt : let s := ((atWord (seqWord 0x12 (opsR 1 2 2)) 4 fun q => q.setS 2 1).modCtx 0 fun c => { c with image := some { layers := 2 } }).modPit 0 fun p =>
      { p with mask := 1 }
    Ready s 0x12 (opsR 1 2 2) 4 [1, 2] ∧ ((s.core 0).seq.sr 2).toNat % 256 < (s.ctx 0).layers ∧ s.icoreOf 0 = some 0 := by
  unfold Ready State.issues State.regsReady State.nextPc; decide +kernel

theorem test_wit_address : Ready0 0x13 (opsR 0 2 3) [2] ∧ Ready0 0x14 (opsR 2 0 (2 * 2 ^ 13)) [2] ∧ fld (opsR 2 0 (2 * 2 ^ 13)) 17 13 = 2 ∧ Ready0 0x16 (opsR 2 0 0x1FFF) [] ∧
    fld (opsR 2 0 0x1FFF) 17 13 = 0 ∧ Ready0 0x17 (opsR 2 0 0x1FFF) [] ∧ Ready0 0x3E (opsR 0 0 0xFFFF) [] ∧ ((atWord 0 4 id).ctx 0).brk = none := by
  unfold Ready0 Ready State.issues State.regsReady State.nextPc; decide +kernel

/-- Core 0 with a handle of every memory: 1 weight, 2 activation, 3 partial sums, 4 delta, all of class 0. -/
def withHandles (s : State) : State := s.modCore 0 fun k => { k with handles := [
  { slot := 0, h := 1, mem := 0, cls := 0, base := 0, size := 24576 }, { slot := 0, h := 2, mem := 1, cls := 0, base := 0, size := 12288 },
  { slot := 0, h := 3, mem := 2, cls := 0, base := 0, size := 4096 }, { slot := 0, h := 4, mem := 3, cls := 0, base := 0, size := 4096 }] }

/-- An address register of handle h, 4,096 units from a byte offset of 0. -/
def aOf (h : Nat) : W64 := arMake h 4096 0

/-- SLD and SST of the 8 bytes at 56 of the activation handle. -/
def atScalar (op : BitVec 6) : State := withHandles (atWord (seqWord op (opsR 1 4 56)) 4 fun q => (q.setA 2 (aOf 2)).setS 1 0xABCD)

theorem test_wit_scalar_memory : fld (opsR 1 4 56) 20 17 = 2 ∧ fld (opsR 1 4 56) 16 0 % 8 = 0 ∧ Ready (atScalar 0x10) 0x10 (opsR 1 4 56) 4 [1] ∧
    Ready (atScalar 0x11) 0x11 (opsR 1 4 56) 4 [1] := by
  unfold Ready State.issues State.regsReady State.nextPc; decide +kernel

theorem test_wit_scalar_memory_translates (op : BitVec 6) : ((atScalar op).core 0).translate 0 (arHandle (aOf 2)) 0 64 true =
    .ok { slot := 0, h := 2, mem := 1, cls := 0, base := 0, size := 12288 } := rfl

theorem test_wit_scalar_memory_free : let r := (atScalar 0x11).rangesOf 0 0 (arHandle (aOf 2)) 0 64
    (atScalar 0x11).busyWrite 0 r = false ∧ (atScalar 0x11).busyRead 0 r = false ∧ ((atScalar 0x11).core 0).memoriesWf = true := by decide +kernel

/-- The slot that the 8 bytes lie in is FULL for SLD; it may be written by SST as it is. -/
theorem test_wit_scalar_memory_present : let e : HEnt := { slot := 0, h := 2, mem := 1, cls := 0, base := 0, size := 12288 }
    (((atScalar 0x10).modCore 0 fun k => { k with presA := [(0, { state := 2 })] }).core 0).readOk 0 1 (slotsOf e [(0, 64)]) = true ∧
    ((atScalar 0x11).core 0).writeOk 0 1 (slotsOf e [(0, 64)]) = true := by decide +kernel

/-! ### Commands at issue -/

/-- A command instruction with mode pair 1, handles of a1, a2 and a3 as given, in a context of an image of one core. -/
def cmdWord (fn : Nat) : BitVec 26 := BitVec.ofNat 26 (1 * 2 ^ 22 + 2 * 2 ^ 18 + 3 * 2 ^ 14 + 2 ^ 10 + fn)
def atCommand (op : BitVec 6) (fn hD hA hB : Nat) (m0 m1 : W64) : State :=
  (withHandles (atWord (seqWord op (cmdWord fn)) 4 fun q =>
    { (((((q.setA 1 (aOf hD)).setA 2 (aOf hA)).setA 3 (aOf hB)).setS 2 m0).setS 3 m1) with ldw := some {} })).modCtx 0
    fun c => { c with image := some {} }

/-- An instruction of every command, with its mode pair: FN, handles of aD, aA and aB, M0 and M1. -/
def commandCases : List (BitVec 6 × Nat × Nat × Nat × Nat × Nat × Nat) := [
  (0x20, 0, 0, 1, 0, 0, 0), (0x21, 0, 3, 2, 0, 2 ^ 34 + 15 * 2 ^ 14, 0), (0x22, 0, 2, 3, 0, 2 ^ 34, 0), (0x24, 0, 2, 2, 2, 0, 2 ^ 32),
  (0x25, 0, 2, 2, 2, 2 ^ 34, 2 ^ 32), (0x26, 0, 2, 2, 2, 9 * 2 ^ 14, 2 ^ 32), (0x28, 0, 2, 2, 2, 0, 0), (0x29, 0, 2, 2, 2, 0, 2 ^ 32),
  (0x2C, 0, 1, 2, 2, 0, 255), (0x2D, 0, 1, 2, 1, 8, 2 ^ 32 + 1), (0x2E, 0, 2, 2, 1, 0, 2 ^ 32), (0x2F, 0, 2, 2, 1, 0, 0), (0x30, 0, 2, 2, 1, 0, 0),
  (0x31, 0, 4, 2, 1, 2 ^ 34 + 8, 255), (0x32, 0, 2, 4, 1, 0, 0), (0x33, 0, 2, 4, 1, 0, 0), (0x34, 0, 2, 2, 1, 255 * 2 ^ 26, 0),
  (0x35, 0, 2, 2, 1, 0, 0), (0x36, 0, 2, 2, 1, 255 * 2 ^ 26, 0), (0x37, 0, 2, 2, 1, 0, 0), (0x38, 0, 2, 2, 1, 0, 0)]

/-- The state of a case. -/
def caseState (r : BitVec 6 × Nat × Nat × Nat × Nat × Nat × Nat) : State :=
  atCommand r.1 r.2.1 r.2.2.1 r.2.2.2.1 r.2.2.2.2.1 (BitVec.ofNat 64 r.2.2.2.2.2.1) (BitVec.ofNat 64 r.2.2.2.2.2.2)


theorem test_wit_commands_accepted : ∀ r ∈ commandCases, (caseState r).accepts 0 r.1 (cmdWord r.2.1) (inst0 4) := by
  unfold State.accepts State.issues State.regsReady State.nextPc; decide +kernel

theorem test_wit_commands_all : commandCases.map (·.1) = commandTable.map (·.1) := by decide

/-- MOVE with DCORE 1 in an image of one core, MOVE with FN 1, MOVE with LEN 0, VOP of no elements, and a full queue. -/
def badMove (f : Seq → Seq) (fn : Nat) (m1 : W64) : State := (atCommand 0x2C fn 1 2 2 0 m1).modSeq 0 f

theorem test_wit_command_checks : let w := cmdWord 0
    Ready (badMove id 0 1) 0x2C w 4 [2, 3] ∧ fld w 13 10 = 1 ∧
    checkCmd 0 ((badMove id 0 1).core 0) ((badMove id 0 1).ctx 0) 0 ((badMove id 0 1).cmdOf 0 (inst0 4) 0x2C w) = some 0x4032 ∧
    Ready (badMove id 1 255) 0x2C (cmdWord 1) 4 [2, 3] ∧ fnOk 0x2C (fld (cmdWord 1) 9 0) = false := by
  unfold Ready State.issues State.regsReady State.nextPc; decide +kernel

theorem test_wit_command_operands : let s := badMove (fun q => q.setA 2 (arMake 2 0 0)) 0 255
    let d := s.cmdOf 0 (inst0 4) 0x2C (cmdWord 0)
    checkCmd 0 (s.core 0) (s.ctx 0) 0 d = none ∧ emptyCmd d = false ∧ ∃ o ∈ opnds d fun _ => false, s.opndBad 0 (inst0 4) d o = true := by
  decide +kernel

theorem test_wit_command_empty : let s := atCommand 0x24 0 2 2 2 0 0
    let d := s.cmdOf 0 (inst0 4) 0x24 (cmdWord 0)
    checkCmd 0 (s.core 0) (s.ctx 0) 0 d = none ∧ emptyCmd d = true := by decide +kernel

/-- A MOVE of one unit of weight memory to the unit after it. -/
def moveCmd : Cmd := { op := 0x2C, aA := arMake 1 1 0, aD := arMake 1 1 1, m1 := 0xFF, inst := inst0 4 }

/-- Core 0 with a command at the head of a unit's queue. -/
def atQueue (u : Nat) (l : List Cmd) (f : Core → Core) : State :=
  (withHandles up).modCore 0 fun k => f { k with queues := k.queues.putN u l, seq := { k.seq with mode := .run, inst := some (inst0 4) } }

theorem test_wit_command_queue_full : let s := (caseState (0x2C, 0, 1, 2, 2, 0, 255)).modCore 0 fun k =>
      { k with queues := k.queues.putN 3 (List.replicate 16 moveCmd) }
    let d := s.cmdOf 0 (inst0 4) 0x2C (cmdWord 0)
    s.fetch 0 0x2C (cmdWord 0) = .ok (inst0 4) ∧ checkCmd 0 (s.core 0) (s.ctx 0) 0 d = none ∧ (∀ o ∈ opnds d fun _ => false, s.opndBad 0 (inst0 4) d o = false) ∧
    s.regBad 0 (inst0 4) d = false ∧ 16 ≤ ((s.core 0).queue (unitOf 0x2C)).length := by decide +kernel

/-- POST of output 0 with a reference in a2 and the value of s3. -/
def postWord : BitVec 26 := BitVec.ofNat 26 (2 * 2 ^ 18 + 3 * 2 ^ 13 + 2 ^ 12 + 2 ^ 11)

theorem test_wit_post : Ready0 0x3A postWord [3] ∧ fld postWord 25 22 < (inst0 4).nout ∧ bit postWord 12 = true ∧ bit postWord 11 = true ∧ fld postWord 10 0 = 0 ∧
    let s := atWord (seqWord 0x3A postWord) 4 id
    bit (s.core 0).seq.posted 0 = false ∧ s.quiet 0 (inst0 4) = true ∧ (s.core 0).seq.wrote = [] := by
  refine ⟨?_, ?_⟩
  · unfold Ready0 Ready State.issues State.regsReady State.nextPc; decide +kernel
  · decide +kernel

/-- DONE with TAKE after it in a pitch in push mode, and in one in pull mode. -/
def atDone (pull : Bool) : State := ((atWord (seqWord 0x3B 0) 4 fun q => { q with posted := 1 }).modCore 0 fun k =>
  { k with imem := k.imem.writeBytes 4 (leBytes 4 (seqWord 0x3C 0).toNat) }).modPit 0 fun p =>
  { p with mask := 1, mode := if pull then 2 else 0 }

theorem test_wit_done : Ready (atDone false) 0x3B 0 4 [] ∧ Ready (atDone true) 0x3B 0 4 [] ∧ (atDone true).quiet 0 (inst0 4) = true ∧
    ((atDone true).core 0).seq.posted.toNat = 2 ^ (inst0 4).nout - 1 ∧ (atDone true).idleMode 0 = .take ∧ (atDone false).idleMode 0 = .halt ∧
    opcodeOf ((atDone true).kernelWord 0 (inst0 4) ((atDone true).nextPc 0)) = 0x3C := by
  unfold Ready State.issues State.regsReady State.nextPc; decide +kernel

theorem test_wit_take : let s := atWord (seqWord 0x3C 0) 4 fun q => { q with mode := .atTake }
    s.runs = true ∧ (s.core 0).seq.mode = .atTake ∧ (s.core 0).seq.inst = some (inst0 4) ∧ s.kernelWord 0 (inst0 4) 0 = seqWord 0x3C 0 := by
  decide +kernel

/-- WAIT of each kind: queues drained, units idle, TIME at or past s2, and register s2 not pending; then each with its condition false. -/
theorem test_wit_wait : (∀ k ∈ [0, 1], Ready0 0x3D (opsR 0 0 (k + (if k = 1 then 0xF00 else 0))) []) ∧ (∀ k ∈ [2, 3], Ready0 0x3D (opsR 0 2 k) [2]) ∧
    (let s := (atWord (seqWord 0x3D (opsR 0 2 2)) 4 fun q => q.setS 2 1)
     s.fetch 0 0x3D (opsR 0 2 2) = .ok (inst0 4) ∧ ¬ ((s.core 0).seq.sr 2).toNat ≤ s.clk.time) ∧
    (let s := (atWord (seqWord 0x3D (opsR 0 0 0xF01)) 4 id).modCore 0 fun k => { k with queues := k.queues.putN 3 [moveCmd] }
     s.fetch 0 0x3D (opsR 0 0 0xF01) = .ok (inst0 4) ∧ bit (opsR 0 0 0xF01) 11 = true ∧ (s.core 0).queue 3 ≠ [] ∧ (s.core 0).cmds ≠ []) ∧
    (let s := (atWord (seqWord 0x3D (opsR 0 2 3)) 4 fun q => { q with pend := [2] })
     s.fetch 0 0x3D (opsR 0 2 3) = .ok (inst0 4) ∧ 2 ∈ (s.core 0).seq.pend) := by
  refine ⟨?_, ?_, ?_, ?_, ?_⟩ <;> (try unfold Ready0 Ready State.issues State.regsReady State.nextPc) <;> decide +kernel

/-! ### Events of a core -/

/-- A dispatch record with as many tokens as it can have, and one with none. -/
theorem test_wit_kernel_entry : let r : DispatchRec := { words := [1, 0, 0, 0, 0, 0, 0, 0], tokens := List.replicate 14 { ref := true, handle := 255, offset := 2 ^ 32 - 1 } }
    let s := up.modSeq 0 fun q => { q with slot := some r }
    s.runs = true ∧ (s.core 0).seq.mode = .halt ∧ (s.core 0).seq.slot = some r ∧ r.slot = (0 : Slot).val ∧ r.tokens.length ≤ 14 := by decide +kernel

theorem test_wit_time_reached : let s := up.modSeq 0 fun q => { q with mode := .wait 2 5 }
    (s.core 0).seq.mode = .wait 2 5 ∧ fld (2 : W16) 2 0 = 2 ∧ s.nextPc 0 < 16384 := by unfold State.nextPc; decide +kernel

/-- An armed PC at which core 0 stands; then the drain of the hit. -/
theorem test_wit_breakpoint : let s := (atWord 0 4 id).modCtx 0 fun c => { c with brk := some { code := 7, pcs := [0, 0xFFFF, 0xFFFF, 0xFFFF], hold := true } }
    let t := s.modSeq 0 fun q => { q with brkDrain := true }
    s.brkAt (inst0 4) 0 = true ∧ (s.core 0).seq.skipPc ≠ some 0 ∧ (s.core 0).seq.pc.toNat < (inst0 4).klen / 4 ∧ (t.core 0).seq.mode = .run ∧
    (t.core 0).seq.brkDrain = true ∧ t.quiet 0 (inst0 4) = true := by decide +kernel

/-- Core 1 holds a fill notice of core 0, which waits in POST for it, and for core 2 as well. -/
def atNotice (l : List PCore) : State := (up.modCore 1 fun k => { k with notices := [(0, false, 0)] }).modSeq 0 fun q =>
  { q with inst := some (inst0 4), mode := .posting 0 {} l }

theorem test_wit_fill_notice : (((atNotice [1]).core 1).notices.find? fun n => n.1 == 0) = some (0, false, 0) ∧ ((atNotice [1]).core 0).seq.inst = some (inst0 4) ∧
    ((atNotice [1]).core 0).seq.mode = .posting 0 {} [1] ∧ ([1] : List PCore).erase 1 = [] ∧ ([1, 2] : List PCore).erase 1 ≠ [] := by decide +kernel

/-- The same in DONE: the last notice but one, the last with every output posted, in push and in pull mode, and with an output missing. -/
def atEndNotice (pull : Bool) (posted : W16) (l : List PCore) : State := (((atDone pull).modCore 1 fun k => { k with notices := [(0, true, 0)] }).modSeq 0 fun q =>
  { q with mode := .ending l, posted := posted }).modCtx 0 fun c => { c with state := .loaded }

theorem test_wit_fill_notice_of_done (pull : Bool) (p : W16) (l : List PCore) : let s := atEndNotice pull p l
    ((s.core 1).notices.find? fun n => n.1 == 0) = some (0, true, 0) ∧ (s.core 0).seq.inst = some (inst0 4) ∧ (s.core 0).seq.mode = .ending l ∧
    (s.core 0).seq.posted = p ∧ (s.ctx 0).state = .loaded ∧ s.nextPc 0 = 1 := by
  cases pull <;> exact ⟨rfl, rfl, rfl, rfl, rfl, rfl⟩

theorem test_wit_fill_notice_cases : (1 : W16).toNat = 2 ^ (inst0 4).nout - 1 ∧ (0 : W16).toNat ≠ 2 ^ (inst0 4).nout - 1 ∧ ([1] : List PCore).erase 1 = [] ∧
    ([1, 2] : List PCore).erase 1 ≠ [] ∧ (atEndNotice true 1 [1]).runs = true ∧ (atEndNotice true 1 [1]).idleMode 0 = .take ∧ (atEndNotice false 1 [1]).idleMode 0 = .halt ∧ 1 < (inst0 4).klen / 4 ∧
    opcodeOf ((atEndNotice true 1 [1]).kernelWord 0 (inst0 4) 1) = 0x3C := by decide +kernel

theorem test_wit_command_starts : let s := atQueue 3 [moveCmd] id
    let l := opnds moveCmd (s.frozenRow 0 moveCmd.inst moveCmd)
    (s.core 0).queue (unitNum .move) = [moveCmd] ∧ s.blocked 0 3 moveCmd = false ∧ s.transFault 0 moveCmd.inst moveCmd l = none ∧
    s.presFault 0 moveCmd.inst moveCmd l = none := by decide +kernel

/-- A SEND with a free grant entry, and a command behind an earlier one that writes what it reads. -/
theorem test_wit_send_starts : let d : Cmd := { op := 0x34, aA := arMake 1 1 0, m0 := BitVec.ofNat 64 (255 * 2 ^ 26), inst := inst0 4 }
    let s := (atQueue 3 [d] id).modCtx 0 fun c => { c with image := some {} }
    let l := opnds d (s.frozenRow 0 d.inst d)
    s.blocked 0 3 d = false ∧ s.transFault 0 d.inst d l = none ∧ s.presFault 0 d.inst d l = none ∧ (msgCores d).length ≤ ((s.core 0).freeGrants).length := by
  decide +kernel

theorem test_wit_command_blocked : let d := { moveCmd with num := 1, reads := [⟨0, 0, 0, 64⟩] }
    let s := (atQueue 3 [d] id).modCore 0 fun k => { k with queues := k.queues.putN 0 [{ moveCmd with op := 0x22, writes := [⟨0, 0, 0, 64⟩] }] }
    s.blocked 0 3 d = true := by decide +kernel

/-- The MOVE has started; it runs without a fault, and with one where its handle is gone. -/
theorem test_wit_command_completes : let d := { moveCmd with started := true }
    let s := atQueue 3 [d] id
    (s.core 0).queue 3 = [d] ∧ s.cmdReady 0 d = true ∧ (s.runCmd 0 d).2 = none ∧ (∀ imm v, (((s.runCmd 0 d).1).core 0).seq.mode ≠ .wait imm v) ∧
    ((s.core 0).handle 0 1).isSome = true ∧ (s.core 0).memoriesWf = true ∧ fld d.m1 7 0 = 0xFF := by
  have h : (((((atQueue 3 [{ moveCmd with started := true }] id)).runCmd 0 { moveCmd with started := true }).1).core 0).seq.mode = .run := by decide +kernel
  refine ⟨by decide +kernel, by decide +kernel, by decide +kernel, ?_, by decide +kernel, by decide +kernel, by decide +kernel⟩
  intro imm v; rw [h]; exact SeqMode.noConfusion

/-- SLOAD of a layer that has no stash. -/
theorem test_wit_command_faults : let d : Cmd := { op := 0x2F, aD := arMake 2 1 0, inst := inst0 4, started := true }
    let s := (atQueue 3 [d] id).modCtx 0 fun c => { c with image := some { layers := 1 } }
    (s.core 0).queue 3 = [d] ∧ s.cmdReady 0 d = true ∧ (s.runCmd 0 d).2 = some 0xB004 := by decide +kernel

/-- A started command of core 0 at the head of its unit's queue, in a context in service of an image of one core and one layer, with a
spill area at 1 MiB. -/
def startedCmd (op fn : Nat) (aD aA aB : W64) (m0 m1 : Nat) : Cmd :=
  { op := op, fn := fn, aA := aA, aD := aD, aB := aB, m0 := BitVec.ofNat 64 m0, m1 := BitVec.ofNat 64 m1, inst := inst0 4, started := true, seq := some 0, res := 1 }
def atStarted (d : Cmd) (f : Core → Core) : State := (atQueue (unitOf d.op) [d] fun k => f { k with lcore := some 0 }).modCtx 0 fun c => { c with
  state := .loaded, image := some { layers := 1, cores := 1 }
  desc := some { comp := { ring := .slot 0, idx := 0, sqIndex := 0, user := 0, type := 1, slot := 0 }, spill := 1048576, param := 0, entries := [], binds := [] } }
def unitFor (d : Cmd) : CmdUnit := match unitOf d.op with | 0 => .engine | 1 => .vector | 2 => .table | _ => .move

/-- The conditions of `State.completes`, a next word among them. -/
abbrev CompletesNow (s : State) (u : CmdUnit) (d : Cmd) : Prop :=
  s.wrap.hold = false ∧ s.runs = true ∧ s.frozen d.inst.slot = false ∧ ((s.core 0).queue (unitNum u)).head? = some d ∧ d.started = true ∧
  (u ≠ .move → s.pwr.gated = false) ∧ s.cmdReady 0 d = true ∧ s.nextPc 0 < 16384
theorem completes_of (s : State) (u : CmdUnit) (d : Cmd) : CompletesNow s u d → s.completes 0 u d :=
  fun ⟨a, b, c, e, f, g, i, j⟩ => ⟨a, b, c, e, f, g, i, .inr j⟩

/-- An address register of handle h, LEN units from its start. -/
abbrev ar (h len : Nat) : W64 := arMake h len 0
def table0 (k : Core) : Core := { k with tables := k.tables.putN 0 (some { owner := 0, bytes := [] }) }

/-- Commands of the engine, vector and table units: LDW, MMUL without a write-out and with one, PSOUT, VOP by its kinds of result,
VRED and VRAND by theirs, TLOAD, TEVAL. -/
def startedCases : List (Cmd × (Core → Core)) := [
  (startedCmd 0x20 0 0 (ar 1 1024) 0 0 0, id), (startedCmd 0x21 0 (ar 3 32) (ar 2 64) 0 (2 ^ 34 + 15 * 2 ^ 14) 0, id),
  (startedCmd 0x21 0 (ar 3 32) (ar 2 64) (ar 1 64) (2 ^ 34) 0, id), (startedCmd 0x22 0 (ar 2 64) (ar 3 32) 0 (2 ^ 34) 0, id),
  (startedCmd 0x24 0 (ar 2 1) (ar 2 1) (ar 2 1) 0 (2 ^ 32), id), (startedCmd 0x24 11 (ar 2 1) (ar 2 1) (ar 2 1) 0 (2 ^ 32), id),
  (startedCmd 0x24 13 (ar 2 1) (ar 2 1) (ar 2 1) 0 (2 ^ 32), id), (startedCmd 0x25 0 (ar 2 1) (ar 2 1) (ar 2 1) (2 ^ 34) (2 ^ 32), id),
  (startedCmd 0x25 4 (ar 2 1) (ar 2 1) (ar 2 1) (2 ^ 34) (2 ^ 32), id), (startedCmd 0x26 0 (ar 2 1) 0 0 (9 * 2 ^ 14) (2 ^ 32), id),
  (startedCmd 0x26 1 (ar 2 1) 0 0 (8 * 2 ^ 14) (2 ^ 32), id), (startedCmd 0x28 0 0 (ar 2 385) 0 0 0, id), (startedCmd 0x29 0 (ar 2 1) (ar 2 1) 0 0 (2 ^ 32), table0)]

theorem test_wit_started_complete : ∀ e ∈ startedCases, CompletesNow (atStarted e.1 e.2) (unitFor e.1) e.1 := by
  unfold CompletesNow State.nextPc; decide +kernel

theorem scratchAt_of (s : State) (d : Cmd) (reg : W64) (m at' : Nat)
    (h : ∃ e ∈ (s.core 0).handle d.inst.slot (arHandle reg), e.mem = m ∧ m < 5 ∧ e.cls ≠ 1 ∧ at' = e.base * 64 + arOff reg * 64) : s.scratchAt 0 d reg m at' := h

/-- The destination of the cases that write scratch: PSUM for MMUL, whose write-out goes to weight memory, and activation memory for the rest. -/
theorem test_wit_started_destinations : (∀ e ∈ startedCases, e.1.op ≠ 0x20 → e.1.op ≠ 0x28 → ∃ y ∈ ((atStarted e.1 e.2).core 0).handle e.1.inst.slot (arHandle e.1.aD),
      y.mem = (if e.1.op = 0x21 then 2 else 1) ∧ y.cls ≠ 1 ∧ 0 = y.base * 64 + arOff e.1.aD * 64) ∧
    ∀ e ∈ startedCases, e.1.op = 0x21 → mOut e.1.m0 ≠ 0xF → ∃ y ∈ ((atStarted e.1 e.2).core 0).handle e.1.inst.slot (arHandle e.1.aB), y.mem = 0 ∧ y.cls ≠ 1 ∧
      0 = y.base * 64 + arOff e.1.aB * 64 := by decide +kernel

/-- The tile of LDW, whose slots are there; MMUL without ACC_RANGE; and the slots of TLOAD and TEVAL. -/
theorem test_wit_engine_cases : (∀ e ∈ startedCases, e.1.op = 0x20 → mSparse e.1.m0 = 0 ∧
      ((atStarted e.1 e.2).core 0).readOk 0 0 (slotsOf { slot := 0, h := 1, mem := 0, cls := 0, base := 0, size := 24576 } [(0, tileExtent 0 0 false)]) = true) ∧
    (∀ e ∈ startedCases, e.1.op = 0x21 → let s := atStarted e.1 e.2
      let rows := mmulRows e.1.m0 e.1.m1 (s.rdReg 0 (inst0 4) e.1 e.1.aA (mmulA e.1.m0 e.1.m1).1)
      (mmulRun e.1.m0 (s.core 0).weightTile (s.rdReg 0 (inst0 4) e.1 e.1.aD (mM e.1.m0 * 2048)) (s.frozenRow 0 (inst0 4) e.1) rows.zipIdx ([], false)).2.2 = false) ∧
    (∀ e ∈ startedCases, e.1.op = 0x28 → ((atStarted e.1 e.2).core 0).tables.at? 0 = some none ∧
      tableBad (((atStarted e.1 e.2).rdReg 0 (inst0 4) e.1 e.1.aA 24640).take 24608) = false) ∧
    ∀ e ∈ startedCases, e.1.op = 0x29 → ((atStarted e.1 e.2).core 0).tables.at? (e.1.fn % 16) = some (some { owner := 0, bytes := [] }) := by
  refine ⟨?_, ?_, ?_, ?_⟩ <;> decide +kernel

theorem test_wit_ldw_translates : 
    ((atStarted (startedCmd 0x20 0 0 (ar 1 1024) 0 0 0) id).core 0).translate 0 1 0 (roundUp (tileExtent 0 0 false) 64) false =
      .ok { slot := 0, h := 1, mem := 0, cls := 0, base := 0, size := 24576 } := rfl

/-! Commands of the move unit -/

def dir0 : DirEnt := { gen := 1, live := true, elems := 1, length := 1 }
def region0 (k : Core) : Core := { k with regions := [{ slot := 0, idx := 0, layer := 0, flow := 0, off := 0, len := 4096 }] }
def granted0 (k : Core) : Core := { k with grants := k.grants.putN 0 (some { slot := 0, igen := 1, hdr := {}, num := 0, granted := true }) }
/-- A ring inbox with an item of 64 bytes, and a combining inbox, or a window, that holds a sum. -/
def ring0 (k : Core) : Core := { k with
  inboxes := [{ slot := 0, num := 0, cap := 8, base := 4096, isOpen := true, tail := 2, occ := 2 }]
  act := k.act.writeBytes 4096 (leBytes 8 (2 ^ 63 + 2 * 2 ^ 32 + 64)) }
def win1 (comb : Bool) (k : Core) : Core :=
  let w : Win := { isOpen := true, combining := comb, owner := some (inst0 4), lo := 8192, len := 64, tag := 9, expect := 1, ready := 1 }
  { k with wins := k.wins.putN 1 w }

/-- STASH, SLOAD, SQUERY, GACC, GREAD without RETIRE and with it, SEND, RWRITE, RECV of both kinds of inbox, WOPEN of both kinds, WCLOSE of
a window of the instance's and of none. -/
def moveCases : List (Cmd × (Core → Core)) := [
  (startedCmd 0x2E 0 (ar 1 64) (ar 2 1) 0 0 (2 ^ 32), id), (startedCmd 0x2F 0 (ar 2 1) 0 0 0 0, id), (startedCmd 0x30 0 0 0 0 0 0, id),
  (startedCmd 0x31 0 (ar 4 16) (ar 3 32) 0 (2 ^ 34) 255, region0), (startedCmd 0x32 0 (ar 2 1) (ar 4 1) 0 0 0, region0),
  (startedCmd 0x32 1 (ar 2 1) (ar 4 1) 0 0 0, region0), ({ startedCmd 0x34 0 0 (ar 2 1) 0 0 0 with gids := [0] }, granted0),
  ({ startedCmd 0x36 0 0 (ar 2 1) 0 0 0 with gids := [0] }, granted0), (startedCmd 0x35 0 (ar 2 1) 0 0 1 0, ring0), (startedCmd 0x35 0 (ar 2 1) 0 0 2 0, win1 true),
  (startedCmd 0x37 0 (ar 2 1) 0 0 0 0, id), (startedCmd 0x37 16 (ar 2 1) 0 0 0 0, id), (startedCmd 0x38 1 0 0 0 0 0, win1 false), (startedCmd 0x38 0 0 0 0 0 0, id)]

/-- Their state; where SLOAD finds a live item in the arena. -/
def moveState (e : Cmd × (Core → Core)) : State :=
  let s := atStarted e.1 e.2
  if e.1.op = 0x2F then { (s.modCtx 0 fun k => { k with arena := k.arena.insert 0 (4096, 1, 1) }) with
    devMem := Memory.writeBytes [] (s.dirAddr 0 (inst0 4) 0) dir0.bytes }
  else s

theorem test_wit_moves_complete : ∀ e ∈ moveCases, CompletesNow (moveState e) .move e.1 := by unfold CompletesNow State.nextPc; decide +kernel

theorem test_wit_move_operands : (∀ e ∈ moveCases, e.1.op ∈ [0x2F, 0x32, 0x35, 0x37] → ∃ y ∈ ((moveState e).core 0).handle e.1.inst.slot (arHandle e.1.aD),
      y.mem = 1 ∧ y.cls ≠ 1 ∧ 0 = y.base * 64 + arOff e.1.aD * 64) ∧
    (∀ e ∈ moveCases, e.1.seq = some 0 ∧ e.1.res = 1) ∧ (inst0 4).layer ≠ 0xFF ∧ ∀ e ∈ moveCases, 1 ≤ ((moveState e).ctx 0).spillAddr := by
  refine ⟨?_, ?_, ?_, ?_⟩ <;> decide +kernel

/-- STASH has no entry yet and room in its arena; SLOAD has its entry, whose item is in the arena and whose destination is free. -/
theorem test_wit_stash_cases : (∀ e ∈ moveCases, e.1.op = 0x2E → (moveState e).dirEntry 0 (inst0 4) 0 = none ∧ ((moveState e).ctx 0).arenaOf 0 = (0, 0, 0) ∧
      ((moveState e).core 0).writeOk 0 0 (slotsOf { slot := 0, h := 1, mem := 0, cls := 0, base := 0, size := 24576 } [(0, 1)]) = true) ∧
    ∀ e ∈ moveCases, e.1.op = 0x2F → (moveState e).dirEntry 0 (inst0 4) 0 = some dir0 ∧ (moveState e).lateFault 0 (inst0 4) e.1
      { reg := e.1.aD, write := true, extent := roundUp (decodedLen 0 0 1) 64, parts := (runParts (decodedLen 0 0 1)).2 } = none ∧
      ((moveState e).stashBytes 0 (inst0 4) dir0).isOk = true := by
  refine ⟨?_, ?_⟩ <;> decide +kernel

/-- GACC and GREAD find their region, and the contributions of GACC are finite. -/
theorem test_wit_gradient_cases : ∀ e ∈ moveCases, let s := moveState e
    (e.1.op = 0x31 → (∃ y ∈ (s.core 0).handle 0 (arHandle e.1.aD), y.base = 0) ∧ ((s.core 0).gaccFault (inst0 4) 0 (gaccSpan e.1)).isOk = true ∧
      ∀ v ∈ (s.gaccRows 0 (inst0 4) e.1 0).flatMap (·.2), v.isFin = true) ∧
    (e.1.op = 0x32 → (s.gabRange 0 (inst0 4) e.1 8).isOk = true ∧ ∀ r ∈ (s.core 0).regions, (inst0 4).atomic = r.flow) := by decide +kernel

/-- RECV picks its inbox, whose payload has room; WOPEN has its range EMPTY; WCLOSE meets a window of its instance, and none. -/
theorem test_wit_message_cases : ∀ e ∈ moveCases, let s := moveState e
    (e.1.op = 0x35 → (s.recvPick 0 (inst0 4) e.1).isSome = true ∧ s.lateFault 0 (inst0 4) e.1
      { reg := e.1.aD, write := true, extent := roundUp 64 64, parts := (runParts 64).2 } = none) ∧
    (e.1.op = 0x37 → ((s.core 0).win 0).isOpen = false ∧ (s.core 0).reqq = [] ∧ ((s.core 0).translate 0 2 0 64 true).isOk = true ∧
      ∀ j ∈ slotsOf { slot := 0, h := 2, mem := 1, cls := 0, base := 0, size := 12288 } [(0, 64)], ((s.core 0).presAt 1 j).state = 0) ∧
    (e.1.op = 0x38 → (((s.core 0).win e.1.fn).isOpen = true ∧ ((s.core 0).win e.1.fn).owner = some (inst0 4)) ∨ ¬ ((s.core 0).win e.1.fn).isOpen = true) := by
  decide +kernel

theorem test_wit_ring_item : (moveState (startedCmd 0x35 0 (ar 2 1) 0 0 1 0, ring0)).ringFirst 0
    { slot := 0, num := 0, cap := 8, base := 4096, isOpen := true, tail := 2, occ := 2 } = some (0, 0) := by decide +kernel

/-- A message and a write to device memory that are the next results to leave. -/
theorem test_wit_release : let s := up.modCore 0 fun k => { k with
      relBuf := [{ seq := 0, slot := 0, inst := inst0 4, bytes := 64, kind := .write 0 5 [(0, [1, 2])] false 0 }, { seq := 1, slot := 0, inst := inst0 4, bytes := 0, kind := .mesh [] }]
      handles := [{ slot := 0, h := 5, mem := 5, cls := 0, base := 0, size := 1 }] }
    ((s.core 0).relBuf.find? fun y => y.seq == (s.core 0).nextRel) = some { seq := 0, slot := 0, inst := inst0 4, bytes := 64, kind := .write 0 5 [(0, [1, 2])] false 0 } ∧
    (s.core 0).relSkip = [] ∧ (s.core 0).handle 0 5 = some { slot := 0, h := 5, mem := 5, cls := 0, base := 0, size := 1 } ∧
    (((s.modCore 0 fun k => { k with nextRel := 1 }).core 0).relBuf.find? fun y => y.seq == 1) =
      some { seq := 1, slot := 0, inst := inst0 4, bytes := 0, kind := .mesh [] } := by decide +kernel

/-! ### The Market, the Bell and admission -/

/-- A task-store entry of slot 0 with one data port. -/
def ent0 (f : TaskEnt → TaskEnt) : TaskEnt := f { slot := 0, gen := 1, task := 0, rcd := { ports := 1, edgeCount := 1, nout := 1 }, count := 1 }

/-- A slice in service. -/
def slice0 : Slice := { gen := 1, det := true, budget := 1000, boundA := 0, boundF := 0 }

/-- An image of one core and two tasks, with an edge from output 0 to port 0 of task 1. -/
def image0 : Image := { tasks := 2, peakTokens := 4, peakTasks := 4, layers := 1, edges := [{ target := 1, port := 0, out := 0 }] }

/-- Slot 0 with a slice of an image of two tasks in service in pitch 0, of core 0; entry e of the task store. -/
def inService (e : TaskEnt) (f : Market → Market) : State := ({ up with mkt := f { tasks := [(0, e)] } } : State).modCtx 0 (fun c =>
  { c with state := .loaded, image := some image0, slice := some slice0, igen := 1, quota := 8 }) |>.modPit 0 (fun p =>
  { p with mask := 1, state := 2 }) |>.modCore 0 fun k => { k with lcore := some 0 }

/-- A data token for port 0 of task 0. -/
def arr0 : Arrival := { slot := 0, gen := 1, task := 0, port := 0, kind := 0 }

theorem test_wit_arrival_discarded : let s := inService (ent0 id) fun m => { m with arrivals := [{ arr0 with gen := 0 }] }
    s.runs = true ∧ takeHigh Arrival.level s.mkt.arrivals = some ({ arr0 with gen := 0 }, []) ∧ serialCompare 0 (s.ctx 0).igen = .less := by decide +kernel

/-- With one port still to come before it, and as the last. -/
theorem test_wit_arrival : ∀ n ∈ [1, 2], let e := ent0 fun e => { e with count := n }
    let s := inService e fun m => { m with arrivals := [arr0] }
    let k := s.ctx 0
    s.runs = true ∧ takeHigh Arrival.level s.mkt.arrivals = some (arr0, []) ∧ k.draining = false ∧ k.slice = some slice0 ∧ arr0.gen = k.igen ∧ s.mkt.instanceOf 0 0 = some (0, e) ∧ s.mkt.tasks.find 0 = some e ∧
    bit e.dataMask 0 = false ∧ s.mkt.live 0 + 1 ≤ image0.peakTokens ∧ s.mkt.live 0 + s.mkt.ret 0 < k.quota ∧ 0 < e.rcd.ports := by decide +kernel

theorem test_wit_post_accept : let s := inService (ent0 id) fun m => { m with inq := m.inq.put 0 [.post (inst0 4) 0 {}] }
    s.entryOf (inst0 4) = some (ent0 id) ∧ takeHigh MktMsg.level (s.mkt.inq.get 0) = some (.post (inst0 4) 0 {}, []) ∧
    (∀ d ∈ s.edges (ent0 id), d.port < 16 → d.out = 0 → d.cond = false) ∧ s.edges (ent0 id) ≠ [] := by decide +kernel

theorem test_wit_retirement : let s := inService (ent0 id) fun m => { m with inq := m.inq.put 0 [.retire (inst0 4) 0 {}] }
    s.entryOf (inst0 4) = some (ent0 id) ∧ takeHigh MktMsg.level (s.mkt.inq.get 0) = some (.retire (inst0 4) 0 {}, []) ∧ (s.ctx 0).slice = some slice0 := by decide +kernel

theorem test_wit_dispatch : let e := ent0 fun e => { e with state := 2 }
    let s := inService e fun m => { m with ready := m.ready.put 0 [0] }
    (s.pit 0).state = 2 ∧ (∀ r : Pitch, r ≠ 0 → (s.pit r).state ≠ 2) ∧ (s.pit 0).mode = 0 ∧ s.mkt.reserved.get 0 = none ∧ s.candidates 0 = [(0, e)] ∧
    s.freeCores 0 = [(0, 0)] ∧ s.canRun 0 e 0 0 = true ∧ s.flowConflict 0 e = false := by decide +kernel

theorem test_wit_preempt_ack : ∀ b ∈ [true, false], let e := ent0 fun e => { e with state := 3 }
    let s := (inService e fun m => { m with preempt := m.preempt.put 0 (some ⟨0, 1, 0⟩) }).modSeq 0 fun q =>
      { q with mode := .run, inst := some (inst0 4), preemptible := b }
    s.mkt.preempt.get 0 = some ⟨0, 1, 0⟩ ∧ (∀ r : Pitch, r ≠ 0 → s.mkt.preempt.get r = none) ∧ s.mkt.tasks.find 0 = some e ∧
    (s.core 0).seq.inst = some (inst0 4) ∧ (s.core 0).seq.preemptible = b ∧ e.state = 3 ∧ e.level < 4 := by decide +kernel

/-- A SUBMIT_SLICE that slot 0 has had taken. -/
def sub0 : SubDesc := { comp := { ring := .slot 0, idx := 0, sqIndex := 0, user := 0, type := 1, slot := 0 }, spill := 0, param := 0, entries := [(1, 0, {})], binds := [] }

/-- A complete slice, and one that overruns two below the limit of three and one below it. -/
theorem test_wit_bell_slice : let s := (inService (ent0 id) id).modCtx 0 fun c => { c with slice := some { slice0 with complete := true } }
    let t := fun n => (inService (ent0 id) id).modCtx 0 fun c => { c with desc := some { sub0 with overruns := n } }
    (s.ctx 0).slice = some { slice0 with complete := true } ∧ (s.ctx 0).held = none ∧ (s.ctx 0).group.linked = false ∧
    ((t 1).ctx 0).slice = some slice0 ∧ ((t 1).ctx 0).policy.teardown = false ∧ 1 + 1 < ((t 1).ctx 0).policy.rerunLimit := by decide +kernel

/-- Slot 0 with a SUBMIT_SLICE that waits, in pitch 0 whose admission is due. -/
def dueState : State := ((inService (ent0 id) id).modCtx 0 fun c => { c with slice := none, desc := some sub0 }).modPit 0 fun p => { p with admitDue := true }

theorem test_wit_admission_order : dueState.admitOrder 0 = [0] := by
  have h : (dueState.residents 0).filter dueState.considered = [0] := by decide +kernel
  unfold State.admitOrder
  rw [h]; exact List.mergeSort_singleton _

theorem test_wit_admission : (dueState.pit 0).admitDue = true ∧ bit (dueState.pit 0).evict 8 = false ∧ image0.roots = [] ∧
    dueState.admitCheck 0 image0 (dueState.bellBudget 0) = .accept ∧ (dueState.ctx 0).boundOk image0 sub0.binds = true ∧ sub0.rerun = false := by decide +kernel

theorem test_wit_bank : ∀ b ∈ [(0 : Fin 24), 23], let s := up.modCore 0 fun k => { k with bankUp := 1 ||| 0x800000 }
    (s.core 0).bankUp.getLsbD b = true ∧ (s.core 0).memoriesWf = true := by decide +kernel

theorem test_wit_sleep : let s : State := { up with hst := { up.hst with sleepArm := true } }
    s.hst.advanced = false ∧ s.poll.hst.advanced = false ∧ (s.writing fun o => match o with | .shadow true => true | _ => false) = false := by decide +kernel

/-! ### Errors -/

theorem test_wit_mesh_timeout : ((up.modCtx 0 fun c => { c with state := .opened }).ctx 0).state ≠ .free ∧ ((up.modCtx 95 fun c => { c with state := .torn }).ctx 95).state = .torn ∧
    (up.ctx 0).state = .free := by decide +kernel

/-- A word of zeros is clean, one wrong symbol is corrected, and two are not. -/
theorem test_wit_scrub : bit up.errs.ctrl 0 = true ∧ eccDecode 0 = .clean ∧ eccDecode 0xF = .corrected 0 0xF ∧ eccDecode 0xFF = .uncorrectable := by
  decide +kernel

theorem test_wit_upset : let a : Upset := ⟨0, 0, 4, 0xF⟩
    let b : Upset := ⟨0, 0, 4, 0xFF⟩
    upsetFatal a = false ∧ upsetFatal b = true ∧ meetsAny [⟨0, (bankWord 0 4).1, (bankWord 0 4).2, (bankWord 0 4).2 + 16⟩] [⟨0, 0, 0, 256⟩] = true := by decide +kernel

theorem test_wit_scrub_place : let s := up.modCore 0 fun k => { k with bankOn := 1, sweeps := [{ bank := 0, group := 3 }] }
    (s.core 0).bankOn.getLsbD 0 = true ∧ (0 : BitVec 15).toNat = (s.errs.scrubAt.find (24 * 0 + 0)).getD 0 ∧ (9 : BitVec 15).toNat ≠ (s.errs.scrubAt.find 0).getD 0 ∧
    (s.core 0).sweeps = [{ bank := 0, group := 3 }] ∧ (1 : BitVec 7) ≠ 0 ∧ (2 : BitVec 7) ≠ 0 ∧ (1 : BitVec 7) ≠ 2 := by decide +kernel

/-- A row of the kernel section of slot 0 on core 0, with one of its tags changed. -/
theorem test_wit_row_owner : let s := ((up.modCore 0 fun k => { k with lcore := some 0 }).modPit 0 fun p => { p with mask := 1 }).modCtx 0 fun c =>
      { c with state := .loaded, image := some { cores := 1, kernelLen := 64 } }
    s.rowOwner (.coreShared 0 1 0 5 0) = some 0 ∧ (s.ctx 0).state = .loaded := by decide +kernel

theorem test_wit_selftest : let s : State := { up with cfg := { up.cfg with refs := List.replicate 130 1 } }
    bit s.errs.ctrl 2 = true ∧ (s.core 0).retired = false ∧ s.pwr.gated = false ∧ (s.core 0).queue 0 = [] ∧ s.cfg.refs.length = 130 ∧
    (∀ n ∈ [0, 1], (127, n) ∉ (s.core 0).colsUsed) ∧ ([] : List W32)[127]? ≠ s.cfg.refs[127]? := by decide +kernel

theorem test_wit_core_copy : let s : State := { up with errs := { up.errs with subst := some { lcore := 0, old := 0, new := 71, copying := true } } }
    s.errs.subst = some { lcore := 0, old := 0, new := 71, copying := true } ∧ (71 : PCore) ≠ 0 ∧ s.pitchOf 0 = none := by decide +kernel

/-- A window of a slice overrun that is the oldest. -/
def win0 : CoWindow := { code := 0x2001, origin := 0, slot := 0, ctxId := 0, time := 0, bell := 0, step := 0, detail := 0, reporters := 1, mask := 0, first := 0, torn := false }

theorem test_wit_window : let s : State := { up with ev := { windows := [win0] } }
    s.evRoom = false ∧ win0.code.toNat / 4096 ≠ 1 ∧ win0.code ≠ 0x4040 ∧ s.ev.high.length + s.ev.low.length < 1024 := by decide +kernel

/-- The event egress holds a record and nothing has been said of it. -/
theorem test_wit_queue : let s : State := { up with ev := { high := [win0] } }
    let q : QueueRef := { kind := 6, index := 0, owner := none }
    fld s.cfg.qstale 23 0 ≠ 0 ∧ q.kind.toNat ≤ 8 ∧ bit s.cfg.qstale (24 + staleGroup q.kind.toNat) = true ∧ s.queueHolds q = true ∧ q ∉ s.cfg.staleSaid ∧
    s.ev.windows = [] ∧ s.evRoom = false ∧ s.trc.src ≠ 1 := by decide +kernel

/-! ### Messages -/

/-- Core 0 of slot 0, LOADED with identifier 7 and generation 3, with an item at the head of its arrivals. -/
def atItem (h : MsgHdr) (data : List Byte) (f : Core → Core) : State := (up.modCtx 0 fun c => { c with state := .loaded, id := 7, igen := 3, ctxGen := 5 }).modCore 0
  fun k => f { k with meshIn := [{ hdr := h, data := data }] }

/-- A header of kind k for slot 0. -/
def hdr0 (k : Nat) : MsgHdr := { kind := k, dstSlot := 0, ctxId := 7, igen := 3, ctxGen := 5, units := 1 }

theorem test_wit_request : (atItem { hdr0 kRequest with igen := 4 } [] id).checkHdr { hdr0 kRequest with igen := 4 } = .hold 0 ∧
    let h := { hdr0 kRequest with window := true, target := 15 }
    let s := atItem h [] fun k => { k with wins := k.wins.putN 15 { isOpen := true, owner := some (inst0 4) } }
    s.checkHdr h = .ok 0 ∧ ((s.core 0).win 15).grants 0 h = true := by decide +kernel

theorem test_wit_request_of_ring : let h := hdr0 kRequest
    let b : Inbox := { slot := 0, num := 0, cap := 8, base := 4096, isOpen := true }
    let s := atItem h [] fun k => { k with inboxes := [b] }
    s.checkHdr h = .ok 0 ∧ h.window = false ∧ (s.core 0).inbox 0 h.target = some b ∧ b.waitq = [] ∧ h.units + 1 ≤ b.cap - b.tail ∧ b.occ + (h.units + 1) ≤ b.cap := by
  decide +kernel

theorem test_wit_grant_and_nack : let e : GrantEnt := { slot := 0, igen := 3, hdr := {}, num := 0 }
    ∀ k ∈ [kGrant, kNack], let h := { hdr0 k with gid := 31 }
    let s := atItem h [] fun k => { k with grants := k.grants.putN 31 (some e) }
    s.awaited 0 h = some e ∧ h.gid < 32 ∧ h.reason ≠ 4 := by decide +kernel

theorem test_wit_message : let h := hdr0 kMessage
    let s := atItem h (List.replicate 64 9) fun k => { k with inboxes := [{ slot := 0, num := 0, cap := 4, base := 4096 }] }
    s.checkHdr h = .ok 0 ∧ h.ctxGen = (s.ctx 0).ctxGen ∧ (s.core 0).inbox 0 0 = some { slot := 0, num := 0, cap := 4, base := 4096 } ∧ h.dgen = 0 ∧
    (s.core 0).memoriesWf = true := by decide +kernel

theorem test_wit_window_write : let h := { hdr0 kWrite with window := true, target := 15 }
    let s := atItem h (List.replicate 64 9) fun k => { k with wins := k.wins.putN 15 { isOpen := true, owner := some (inst0 4), lo := 0, len := 64 } }
    s.checkHdr h = .ok 0 ∧ h.ctxGen = (s.ctx 0).ctxGen ∧ h.dgen = ((s.core 0).win 15).gen ∧ (h.offset + h.units) * 64 ≤ ((s.core 0).win 15).len := by decide +kernel

theorem test_wit_withdraw : let h := hdr0 kWithdraw
    let s := atItem h [] fun k => { k with reqq := [{ h with kind := kRequest }] }
    ∃ r ∈ (s.core 0).reqq, r.sameReq h = true := by decide +kernel

/-! ### Descriptors -/

/-- n bytes, zero but for the fields given by offset. -/
def bytesOf (n : Nat) (l : List (Nat × List Byte)) : List Byte :=
  l.foldl (fun d p => d.take p.1 ++ p.2 ++ d.drop (p.1 + p.2.length)) (List.replicate n 0)

/-- A descriptor of a TYPE for a slot. -/
def desc (type slot : Nat) (l : List (Nat × List Byte)) : List Byte :=
  bytesOf 64 ([(0, [BitVec.ofNat 8 type]), (2, [BitVec.ofNat 8 slot])] ++ l)

/-- The block with a descriptor at the head of the admin ring and of the ring of slot 0, and more bytes of host memory. -/
def atDesc (d : List Byte) (st : SlotState) (more : List (Nat × List Byte)) (f : Ctx → Ctx) : State :=
  ({ up with
      hst := { up.hst with en := true, ring := { tail := 1 } }
      hostMem := more.foldl (fun m p => m.writeBytes p.1 p.2) (Memory.writeBytes [] 0 d) } : State).modCtx 0 fun c =>
    f { c with state := st, ring := { tail := 1 } }

/-- What the block takes from a ring. -/
def taken (s : State) (r : Ring) : List Byte × CompRef × State := (s.takeDesc r).getD ([], compOf .admin 0 0 [], s)

/-- A descriptor of a row is taken from a ring. -/
def Takes (s : State) (r : Ring) (row : Nat) : Prop := s.takes r row (taken s r).1 (taken s r).2.1 (taken s r).2.2

theorem takes_of (s : State) (r : Ring) (row : Nat) (h : s.wrap.hold = false) (h1 : (s.takeDesc r).isSome = true)
    (h2 : rowOf (taken s r).1 = some row ∧ descReserved (taken s r).1 = false ∧ (taken s r).2.2.unprivileged r (taken s r).1 = false) :
    Takes s r row := by
  refine ⟨h, ?_, h2⟩
  obtain ⟨x, hx⟩ := Option.isSome_iff_exists.mp h1
  simp only [taken, hx, Option.getD_some]

/-- A descriptor of every row of the table, from the ring that may send it; the slot is in the state st. -/
def rowCases : List (Nat × Ring × SlotState × List Byte) := [
  (0x10, .slot 0, .loaded, desc 1 0 []), (0x20, .slot 0, .opened, desc 2 0 []), (0x21, .admin, .free, desc 2 0 [(24, [1])]), (0x30, .admin, .loaded, desc 3 0 []),
  (0x31, .slot 0, .loaded, desc 3 0 [(20, [1])]), (0x32, .slot 0, .loaded, desc 3 0 [(20, [2])]), (0x40, .slot 0, .loaded, desc 4 0 [(16, [1])]),
  (0x50, .slot 0, .loaded, desc 5 0 []), (0x51, .admin, .loaded, desc 5 0 [(16, [2])]), (0x60, .admin, .loaded, desc 6 0 []),
  (0x70, .slot 0, .loaded, desc 7 0 [(26, [1])]), (0x80, .admin, .free, desc 8 0 []), (0x81, .admin, .torn, desc 8 0 [(16, [1])]),
  (0x82, .admin, .torn, desc 8 0 [(16, [2])]), (0x83, .admin, .opened, desc 8 0 [(16, [3])]), (0x84, .admin, .free, desc 8 0 [(16, [4])]),
  (0x91, .admin, .loaded, desc 9 0 [(16, [1, 1])]), (0x92, .admin, .loaded, desc 9 0 [(16, [2])]), (0x93, .admin, .loaded, desc 9 0 [(16, [3, 2])]),
  (0x94, .admin, .loaded, desc 9 0 [(16, [4]), (50, [1])]), (0x95, .admin, .free, desc 9 0 [(16, [5])]), (0x96, .admin, .free, desc 9 0 [(16, [6])]),
  (0x97, .admin, .free, desc 9 0 [(16, [7])]), (0x98, .admin, .free, desc 9 0 [(16, [8])]), (0x99, .admin, .free, desc 9 0 [(16, [9])])]

theorem test_wit_rows : rowCases.map (·.1) = descTable.map (·.1) ∧ ∀ e ∈ rowCases, Takes (atDesc e.2.2.2 e.2.2.1 [] id) e.2.1 e.1 ∧
    dSlot (taken (atDesc e.2.2.2 e.2.2.1 [] id) e.2.1).1 = some 0 := by
  refine ⟨by decide, fun e he => ⟨takes_of _ _ _ rfl ?_ ?_, ?_⟩⟩ <;> revert e <;> decide +kernel

/-- A ring with nothing in it; a reserved TYPE; a reserved field; SUBMIT_SLICE on the admin ring; slot 127; a slot in another state. -/
theorem test_wit_descriptors_rejected : up.takeDesc .admin = none ∧ (up.ringOf .admin).head = (up.ringOf .admin).tail ∧
    (let s := atDesc (desc 10 0 []) .loaded [] id; (s.takeDesc .admin).isSome = true ∧ rowOf (taken s .admin).1 = none) ∧
    (let s := atDesc (desc 4 0 [(17, [1])]) .loaded [] id; (s.takeDesc .admin).isSome = true ∧ rowOf (taken s .admin).1 = some 0x40 ∧ descReserved (taken s .admin).1 = true) ∧
    (let s := atDesc (desc 1 0 []) .loaded [] id
     (s.takeDesc .admin).isSome = true ∧ rowOf (taken s .admin).1 = some 0x10 ∧ (taken s .admin).2.2.unprivileged .admin (taken s .admin).1 = true) ∧
    (let s := atDesc (desc 6 127 []) .loaded [] id; (s.takeDesc .admin).isSome = true ∧ dSlot (taken s .admin).1 = none) ∧
    (let s := atDesc (desc 6 0 []) .opened [] id; (s.takeDesc .admin).isSome = true ∧ ((taken s .admin).2.2.ctx 0).state ∉ [SlotState.loaded]) := by
  decide +kernel

theorem test_wit_completion (c : CompRef) : (up.writing fun o => o == .desc c) = false ∧ up.hostMem.wf = true := ⟨rfl, rfl⟩

/-- A parameter block with ring sizes of 64 entries. -/
def param0 : List Byte := bytesOf 64 [(16, [6, 6])]

theorem test_wit_open : let s := atDesc (desc 8 0 [(32, leBytes 8 8192), (40, leBytes 8 4096), (24, leBytes 8 0xFFFF0000)]) .free [(4096, param0)] id
    let d := (taken s .admin).1
    (s.takeDesc .admin).isSome = true ∧ rowOf d = some 0x80 ∧ (s.ctx 0).state = .free ∧ (le64 d 32).toNat % 64 = 0 ∧ le64 d 40 ≠ 0 ∧
    (le64 d 40).toNat % 64 = 0 ∧ (taken s .admin).2.2.policyCheck d = none ∧ (taken s .admin).2.1.ring = .admin := by decide +kernel

theorem test_wit_update : ∀ st ∈ [SlotState.opened, .loaded, .torn], let s := atDesc (desc 8 0 [(16, [1]), (24, leBytes 8 0xFFFF0000)]) st [] id
    let d := (taken s .admin).1
    (s.takeDesc .admin).isSome = true ∧ rowOf d = some 0x81 ∧ (s.ctx 0).state = st ∧ (le64 d 40).toNat % 64 = 0 ∧
    (taken s .admin).2.2.policyCheck d = none ∧ le32 d 20 = (s.ctx 0).id ∧ (Policy.ofWord (le64 d 24)).pitch = (s.ctx 0).policy.pitch := by decide +kernel

/-- RESUME of a TORN slot without an image, and with one whose room is there. -/
theorem test_wit_resume : let s := atDesc (desc 8 0 [(16, [2])]) .torn [] id
    let t := atDesc (desc 8 0 [(16, [2])]) .torn [] fun c => { c with image := some image0 }
    (s.ctx 0).noResume = false ∧ (s.ctx 0).image = none ∧ le32 (taken s .admin).1 20 = (s.ctx 0).id ∧ (t.takeDesc .admin).isSome = true ∧
    (t.ctx 0).image = some image0 ∧ (taken t .admin).2.2.roomCheck 0 image0 = none ∧ (taken t .admin).2.2.kernelPlace 0 image0.kernelLen = some 0 := by decide +kernel

/-- SUBMIT_SLICE of no entries of an image without entry ports, of one with an entry port, and of one with a handle off the block. -/
theorem test_wit_submit : let s := fun im => atDesc (desc 1 0 [(16, leBytes 8 4096), (24, leBytes 8 64)]) .loaded [] fun c => { c with image := some im }
    let d := (taken (s image0) (.slot 0)).1
    ((s image0).takeDesc (.slot 0)).isSome = true ∧ dSlot d = some 0 ∧ ((s image0).ctx 0).state = .loaded ∧ (le64 d 16).toNat % 4096 = 0 ∧
    (le64 d 24).toNat % 64 = 0 ∧ (le16 d 32).toNat = 0 ∧ (le16 d 34).toNat = 0 ∧ image0.entriesOk [] = true ∧ ((s image0).ctx 0).boundOk image0 [] = true ∧
    (s image0).bel.running = false ∧ ({ image0 with entryPorts := [(0, 0)] } : Image).entriesOk [] = false ∧
    ((s { image0 with handles := [{ h := 5, mem := 5, cls := 0, tid := 9 }] }).ctx 0).boundOk { image0 with handles := [{ h := 5, mem := 5, cls := 0, tid := 9 }] } [] = false := by
  decide +kernel

/-- An image of one task and a kernel of one word, with its CRC. -/
def imageFile0 : List Byte := bytesOf 176 [
  (0, leBytes 4 0x4947545A), (4, leBytes 2 0x100), (6, leBytes 2 128), (8, leBytes 4 176), (16, leBytes 4 1), (28, leBytes 2 1), (68, leBytes 4 128)
  , (80, leBytes 4 160), (84, leBytes 4 4), (128, TaskRec.bytes {}), (124, [0x31, 0xCC, 0x9E, 0x23])]

/-- Device memory holds the image, and pitch 0 has a core for it. -/
def withImage (s : State) : State := ({ s with devMem := Memory.writeBytes [] 4096 imageFile0 } : State).modPit 0 fun p => { p with mask := 1 }

/-- A result that is no error. -/
def isOk (x : Except W16 Image) : Bool := match x with | .ok _ => true | .error _ => false
theorem exists_of_isOk (x : Except W16 Image) (h : isOk x = true) : ∃ im, x = .ok im := by
  cases x with
  | error c => cases h
  | ok im => exact ⟨im, rfl⟩

/-- A check word over 16 bytes at a time. -/
theorem crc_step (p c c' : W32) (l : List Byte) (h : (l.take 16).foldl (crcByte p) c = c') :
    l.foldl (crcByte p) c = (l.drop 16).foldl (crcByte p) c' := by
  have e : l.foldl (crcByte p) c = (l.take 16 ++ l.drop 16).foldl (crcByte p) c := by rw [List.take_append_drop]
  rw [e, List.foldl_append, h]

theorem test_image_crc : crcGood imageFile0 = true := by
  have h : (zeroAt imageFile0 124).foldl (crcByte 0x82F63B78) 0xFFFFFFFF = 3697357774 := by
    rw [crc_step _ _ 4175164940 _ (by decide +kernel),
    crc_step _ _ 1689176583 _ (by decide +kernel),
    crc_step _ _ 884978882 _ (by decide +kernel),
    crc_step _ _ 3163552016 _ (by decide +kernel),
    crc_step _ _ 1609248198 _ (by decide +kernel),
    crc_step _ _ 2878744791 _ (by decide +kernel),
    crc_step _ _ 686343750 _ (by decide +kernel),
    crc_step _ _ 3412513199 _ (by decide +kernel),
    crc_step _ _ 120548048 _ (by decide +kernel),
    crc_step _ _ 1751032967 _ (by decide +kernel),
    crc_step _ _ 3697357774 _ (by decide +kernel)]
    decide +kernel
  unfold crcGood crc32c crcOf
  rw [h]
  decide +kernel

/-- The checks of an image whose CRC is good. -/
theorem loadCheck_of_good (s : State) (i : Slot) (addr : Nat) (bs : List Byte) (h0 : (ImageFile.ofHeader (s.devRead addr 128)).identity = none)
    (h1 : s.devRead addr (ImageFile.ofHeader (s.devRead addr 128)).len = bs) (h2 : crcGood bs = true)
    (h3 : isOk (s.checkImage i addr (ImageFile.ofHeader (s.devRead addr 128)) bs) = true) : isOk (s.loadCheck i addr) = true := by
  unfold State.loadCheck
  simp only [h0, h1, h2, Bool.not_true, Bool.false_eq_true, if_false, h3]

/-- LOAD_IMAGE of the image at 4,096, and of zeros at address 0. -/
def loadState : State := withImage (atDesc (desc 2 0 [(16, leBytes 8 4096)]) .opened [] id)
def loadState' : State := (taken loadState .admin).2.2.countImage 0 4096 176
theorem test_wit_load_image : isOk (loadState'.loadCheck 0 4096) = true :=
  loadCheck_of_good _ _ _ imageFile0 (by decide +kernel) (by decide +kernel) test_image_crc (by decide +kernel)
theorem test_wit_load_image_taken : (loadState.takeDesc .admin).isSome = true ∧ (le64 (taken loadState .admin).1 16).toNat = 4096 ∧
    (ImageFile.ofHeader (loadState.devRead 4096 128)).len = 176 ∧ (ImageFile.ofHeader (up.devRead 0 128)).identity = some 0xA201 := by decide +kernel

theorem test_wit_image_install : let s : State := (({ up with bel := { up.bel with installs := [0] } } : State).modCtx 0 fun c =>
      { c with state := .opened, pending := some (image0, { ring := .admin, idx := 0, sqIndex := 0, user := 0, type := 2, slot := 0 }) }).modPit 0 fun p => { p with mask := 1 }
    let s₁ := ({ s with bel := { s.bel with installs := [] } } : State).modCtx 0 fun x => { x with pending := none, installWait := false }
    s.bel.installs = [0] ∧ s.pendingBanksOn 0 = true ∧ s₁.installCheck 0 image0 = none ∧ s₁.kernelPlace 0 image0.kernelLen = some 0 := by decide +kernel

/-- BIND of a TENSOR_ID not bound, outside a slice and in one. -/
theorem test_wit_bind : let s := atDesc (desc 3 0 [(16, leBytes 4 9), (48, leBytes 8 4096)]) .loaded [] fun c => { c with slice := some slice0 }
    let d := (taken s .admin).1
    (s.takeDesc .admin).isSome = true ∧ (le32 d 16).toNat = 9 ∧ (s.ctx 0).bindings = [] ∧ 1 ≤ s.granulesFree ∧ (taken s .admin).2.1.ring = .admin := by decide +kernel

/-- COPY of tensor 9 to the weight handle of image core 0. -/
def copyImage : Image := { handles := [{ h := 1, mem := 0, cls := 2, size := 1, tid := 9, off := 0 }] }
def copyState : State := ((atDesc (desc 3 0 [(16, leBytes 4 9), (20, [1, 0]), (24, leBytes 8 4096), (40, [0, 1])]) .loaded [] fun c => { c with image := some copyImage }).modPit 0
  fun p => { p with mask := 1 }).modCore 0 fun k => { k with lcore := some 0, handles := [{ slot := 0, h := 1, mem := 0, cls := 2, base := 0, size := 1 }] }
theorem test_wit_copy : let s := copyState
    let d := (taken s .admin).1
    (s.takeDesc .admin).isSome = true ∧ rowOf d = some 0x31 ∧ descReserved d = false ∧ copyImage.copyTargets 9 = [{ h := 1, mem := 0, cls := 2, size := 1, tid := 9, off := 0 }] ∧
    dByte d 41 = 1 ∧ dByte d 40 < copyImage.cores ∧ dByte d 21 = 0 ∧ (taken s .admin).2.2.imageCore 0 0 = some 0 ∧
    (s.core 0).handle 0 1 = some { slot := 0, h := 1, mem := 0, cls := 2, base := 0, size := 1 } ∧ (s.core 0).memoriesWf = true := by decide +kernel

/-- A bound tensor in a slice: UNBIND and a second BIND wait. -/
theorem test_wit_tensor_waits : let b : Binding := ⟨9, 0, 0, 4096, false, false⟩
    let s := atDesc (desc 3 0 [(16, leBytes 4 9), (20, [2])]) .loaded [] fun c => { c with slice := some slice0, bindings := [b] }
    (s.takeDesc .admin).isSome = true ∧ (s.ctx 0).slice ≠ none ∧ b ∈ (s.ctx 0).bindings ∧ b.tid = (le32 (taken s .admin).1 16).toNat := by decide +kernel

/-- CLOSE of a LOADED context: with no completion that waits, and with a slice whose completion waits for a write. -/
def closeState (busy : Bool) : State :=
  let s := atDesc (desc 8 0 [(16, [3])]) .loaded [] fun c => if busy then { c with slice := some slice0, desc := some sub0, image := some image0 } else c
  if busy then { s with outst := [{ port := 16, tag := 0, addr := 65536, owner := .desc sub0.comp }] } else s

theorem test_wit_close : let s := (taken (closeState false) .admin).2.2.closeKill 0
    let u := (taken (closeState true) .admin).2.2.closeKill 0
    ((closeState false).takeDesc .admin).isSome = true ∧ ((closeState true).takeDesc .admin).isSome = true ∧ s.compsOwed 0 = false ∧
    ∃ h ∈ u.ev.held, h.waitFor = .writes ∧ h.comp.slot = 0 ∧ h.comp.type = 1 ∧ (u.writing fun o => o == .desc h.comp) = true := by decide +kernel

/-- FENCE with QUIET on the ring of a slot in a slice, and on the admin ring; KILL; the two resolutions of a member in doubt; EVICT that may and may not be. -/
theorem test_wit_fence_kill_evict : let q := desc 4 0 [(16, [1])]
    let s := atDesc q .loaded [] fun c => { c with slice := some slice0 }
    (s.takeDesc (.slot 0)).isSome = true ∧ dByte (taken s (.slot 0)).1 16 = 1 ∧ (s.takeDesc .admin).isSome = true ∧ (s.ctx 0).slice ≠ none ∧ (s.ctx 0).held = none ∧
    ((atDesc (desc 4 0 []) .loaded [] id).takeDesc (.slot 0)).isSome = true ∧
    (∀ r ∈ [1, 2], let t := atDesc (desc 5 0 [(16, [BitVec.ofNat 8 r]), (24, leBytes 8 6)]) .loaded [] fun c =>
        { c with slice := some slice0, held := some 1, inDoubt := true, step := 6 }
      (t.takeDesc .admin).isSome = true ∧ le64 (taken t .admin).1 24 = (t.ctx 0).step ∧ dByte (taken t .admin).1 16 = r ∧ (t.ctx 0).inDoubt = true) ∧
    (let t := atDesc (desc 6 0 []) .loaded [] id; (taken t .admin).2.2.canEvict 0 = false) ∧
    (let t := atDesc (desc 6 0 []) .loaded [] fun c => { c with policy := { c.policy with swapIndex := 0 } }
     ({ (taken t .admin).2.2 with mkt := { up.mkt with swapCount := 1 } } : State).canEvict 0 = true) := by decide +kernel

/-- EVICT of a slot with a swap record. -/
theorem test_wit_evict : let t : State := { (atDesc (desc 6 0 []) .loaded [] fun c => { c with policy := { c.policy with swapIndex := 0 } }) with mkt := { up.mkt with swapCount := 1 } }
    (t.takeDesc .admin).isSome = true ∧ (taken t .admin).2.2.canEvict 0 = true := by decide +kernel

/-- A swap record that is VALID and SWAPPED, of the image at 4,096; the records lie at device address 0. -/
def record0 : List Byte := bytesOf 128 [(0, leBytes 4 7), (4, leBytes 4 0xC0000000), (32, leBytes 8 4096), (80, [6, 6])]
def swapState (r : List Byte) : State :=
  let s := withImage (atDesc (desc 8 0 [(16, [4])]) .free [] id)
  { s with devMem := s.devMem.writeBytes 0 r, mkt := { s.mkt with swapCount := 1 } }

theorem test_wit_swap_in : let s := swapState record0
    let d := (taken s .admin).1
    (s.takeDesc .admin).isSome = true ∧ rowOf d = some 0x84 ∧ (le16 d 56).toNat < s.mkt.swapCount ∧ policyReserved (le64 d 24) = false ∧ swapReady (s.swapRecord 0) = true ∧
    swapReady ((swapState []).swapRecord 0) = false := by decide +kernel

/-- The state in which that record is checked. -/
def swapState' : State := ((taken (swapState record0) .admin).2.2.readReq false ((swapState record0).swapAddr 0) 128 .supervisor).modCtx 0 fun x =>
  x.restore ((swapState record0).swapRecord 0) { record := 0, byMarket := false, comp := some (taken (swapState record0) .admin).2.1 }

theorem test_wit_swap_checked : isOk (swapState'.swapCheck 0 ((swapState record0).swapRecord 0) 0) = true ∧ swapState'.kernelPlace 0 4 = some 0 := by
  refine ⟨?_, by decide +kernel⟩
  have h1 : swapState'.devRead (le64 ((swapState record0).swapRecord 0) 32).toNat
      (ImageFile.ofHeader (swapState'.devRead (le64 ((swapState record0).swapRecord 0) 32).toNat 128)).len = imageFile0 := by decide +kernel
  unfold State.swapCheck
  simp only [h1, test_image_crc]
  decide +kernel

theorem test_wit_swap_restored : let s := (withImage up).modCtx 0 fun c => { c with state := .arriving, swapIn := some ⟨0, true, none⟩, image := some {} }
    s.banksOn 0 = true ∧ (s.ctx 0).sources = [] ∧ s.devMem.wf = true := by decide +kernel
theorem test_wit_swap_needs_nothing : ({ image := some {} } : Ctx).needsBack = false := by
  have h : ({} : Image).versioned = [] := List.mergeSort_nil
  show (!({} : Image).versioned.isEmpty || !([] : List RegionRec).isEmpty || decide (0 < 0)) = false
  rw [h]; rfl

/-- READ_COUNTERS of one counter and of 512. -/
theorem test_wit_read_counters : ∀ n ∈ [1, 512], let s := atDesc (desc 7 0 [(16, leBytes 8 4096), (26, leBytes 2 n)]) .loaded [] id
    let d := (taken s .admin).1
    (s.takeDesc .admin).isSome = true ∧ (le64 d 16).toNat % 64 = 0 ∧ (le16 d 26).toNat = n ∧ dSlot d = some 0 := by decide +kernel

/-- A fabric image of one frame, whose one valid entry leaves at its own core. -/
def fabric0 : List Byte := bytesOf 136 [(0, leBytes 4 0x4241465A), (4, leBytes 2 0x100), (6, leBytes 2 1), (72, [0x84])]

theorem test_wit_fabric : let s : State := { atDesc (desc 2 0 [(16, leBytes 8 4096), (24, [1, 0])]) .free [] id with devMem := Memory.writeBytes [] 4096 fabric0 }
    let t := s.modPit 0 fun p => { p with mask := 1 }
    (s.takeDesc .admin).isSome = true ∧ (s.pit 0).mask = 0 ∧ (t.takeDesc .admin).isSome = true ∧ (t.pit 0).mask ≠ 0 ∧ (t.pit 0).install = none ∧ t.residents 0 = [] ∧
    fabScan (t.readFabric 4096).1 (t.pit 0).mask = none ∧ ((fabAll (t.readFabric 4096).1).take 64).length = 1 := by decide +kernel

/-- An install in its second phase and its third, good and bad. -/
theorem test_wit_fabric_install : let x : Install := { comp := { ring := .admin, idx := 0, sqIndex := 0, user := 0, type := 2, slot := 0 }, addr := 4096, frames := 1, phase := 1 }
    let s := fun y => up.modPit 0 fun p => { p with mask := 1, install := some y }
    ((s x).pit 0).install = some x ∧ ((s { x with phase := 2, bad := true }).pit 0).install = some { x with phase := 2, bad := true } ∧
    ((s { x with phase := 2 }).pit 0).install = some { x with phase := 2 } := by decide +kernel

/-- Debug descriptors of a slot whose image has one core, core 0 halted at a breakpoint in it, or running. -/
def debugState (d : List Byte) (halt : Bool) : State := (((atDesc d .loaded [] fun c => { c with image := some image0 }).modPit 0 fun p => { p with mask := 1 }).modCore 0 fun k =>
  { k with lcore := some 0 }).modSeq 0 fun q => { q with brkHalt := halt, inst := some (inst0 4) }

theorem test_wit_debug_descriptors : (∀ b ∈ [0, 1], let s := debugState (desc 9 0 [(16, [1, BitVec.ofNat 8 b])]) false
      (s.takeDesc .admin).isSome = true ∧ (taken s .admin).2.2.debugCore 0 (taken s .admin).1 = true ∧ bit (le16 (taken s .admin).1 17) 0 = (b == 1)) ∧
    (∀ h ∈ [true, false], let s := debugState (desc 9 0 [(16, [3, 2])]) h
      (s.takeDesc .admin).isSome = true ∧ bit (le16 (taken s .admin).1 17) 2 = false ∧ (taken s .admin).2.2.imageCore 0 (le16 (taken s .admin).1 18).toNat = some 0 ∧ s.haltedIn 0 0 = h) ∧
    (let s := debugState (desc 9 0 [(16, [4]), (24, leBytes 8 4096), (32, leBytes 4 64), (50, [1])]) true
     let d := (taken s .admin).1
     (s.takeDesc .admin).isSome = true ∧ rowOf d = some 0x94 ∧ (le64 d 24).toNat % 64 = 0 ∧ (le32 d 32).toNat % 64 = 0 ∧ 64 ≤ (le32 d 32).toNat ∧ dByte d 50 = 1 ∧ s.haltedIn 0 0 = true) := by
  decide +kernel

/-- Stops, resumes and the trigger: as descriptors of the admin ring, and as writes. -/
theorem test_wit_stops : (∀ k ∈ [5, 6, 7, 8, 9], let s := atDesc (desc 9 0 [(16, [BitVec.ofNat 8 k])]) .free [] id; (s.takeDesc .admin).isSome = true) ∧ up.portOpen ∧
    up.runs = true ∧ up.mayResume = true ∧ (up.modPort 0 fun p => { p with state := 5 }).mayResume = false ∧
    ({ (atDesc (desc 9 0 [(16, [8])]) .free [] id) with dbg := { stopped := true } } : State).takeDesc .admin ≠ none := by
  refine ⟨by decide +kernel, ⟨rfl, by decide, rfl⟩, by decide +kernel, by decide +kernel, by decide +kernel, ?_⟩
  have : (({ (atDesc (desc 9 0 [(16, [8])]) .free [] id) with dbg := { stopped := true } } : State).takeDesc .admin).isSome = true := by decide +kernel
  intro h; rw [h] at this; cases this

/-! ### Registers and resets -/

theorem up_portOpen : up.portOpen := ⟨rfl, by decide, rfl⟩

theorem test_wit_port_access : State.reset.cfg.stage = 0 ∧ up.regRead 0x0FFC = none ∧ up.regWrite 0x0FFC 0 = .absent ∧
    (let s : State := { up with cfg := { up.cfg with done := false, stage := 6 } }; s.cfg.done = false ∧ s.regWrite 0x4004 0 ≠ .absent) ∧
    fld (95 : W32) 6 0 < 96 ∧ 96 ≤ fld (96 : W32) 6 0 ∧ fld (71 : W32) 6 0 < 72 := by decide +kernel

/-- Every writable pair has a value, and a staged upper half is found. -/
theorem test_wit_pairs : ∀ e ∈ pairTable, (up.pairVal (regOff (BitVec.ofNat 16 e.1))).isSome = true ∧ up.mgmt.caps.find e.1 = none ∧ up.mgmt.staged.find e.1 = none ∧
    ({ up with mgmt := { up.mgmt with staged := [(e.1, 5)] } } : State).mgmt.staged.find e.1 = some 5 ∧ up.hst.en = false := by decide +kernel

/-- The ends of the range of BEL.PERIOD and the values next to them. -/
theorem test_wit_period : 10000 ≤ fld (10000 : W32) 26 0 ∧ fld (100000000 : W32) 26 0 ≤ 100000000 ∧ fld (9999 : W32) 26 0 < 10000 ∧
    100000000 < fld (100000001 : W32) 26 0 ∧ (let s : State := { up with bel := { up.bel with linked := true, locked := true } }; s.bel.linked = true ∧ s.bel.locked = true) ∧ up.bel.linked = false ∧ up.ev.windows = [] ∧ up.evRoom = false ∧ up.trc.src ≠ 1 := by decide +kernel

theorem test_wit_bell : let s : State := { up with bel := { up.bel with en := true, running := true } }
    s.bellDue = true ∧ s.bel.barrier = none ∧ s.bel.marker = none ∧ up.bellDue = false := by decide +kernel

theorem test_wit_bell_host_market : bit (6 : W32) 1 = true ∧ bit (6 : W32) 2 = true ∧ bit (1 : W32) 0 = true ∧ up.bel.en = false ∧ up.bel.stopped = false ∧ up.runs = true ∧
    up.dbg.stopReq = false ∧ up.dbg.holdFrom = none ∧ ({ up.bel with linked := true } : BellSt).linked = true ∧ up.quotaSum - max (up.ctx 0).quota (up.ctx 0).quotaReg + fld (65536 : W32) 16 0 ≤ 65536 ∧ 65536 < up.quotaSum + fld (65537 : W32) 16 0 ∧
    4 ≤ fld (0x00040001 : W32) 31 16 ∧ fld (0x00030001 : W32) 31 16 < 4 ∧ fld (0x00030001 : W32) 15 0 ≠ 0 ∧ up.cfg.det = false ∧ bit (1 : W32) 0 = true ∧
    (∀ j, (up.ctx j).freeReg = false ∧ (up.ctx j).freeOn = false) ∧ ((up.modCtx 95 fun c => { c with freeReg := true }).ctx 95).freeReg = true := by decide +kernel

/-- An APPLY of an empty pitch, and one whose mask meets another pitch's. -/
theorem test_wit_apply : let s := up.modPit 0 fun p => { p with stagedLo := 1 }
    (∀ q : Pitch, q ≠ 0 → (s.pit q).mask &&& ((s.pit 0).stagedHi ++ (s.pit 0).stagedLo) = 0) ∧ s.residents 0 = [] ∧ (s.pit 0).install = none ∧ s.errs.absent = [] ∧
    ((s.modPit 15 fun p => { p with mask := 1 }).pit 15).mask &&& ((s.pit 0).stagedHi ++ (s.pit 0).stagedLo) ≠ 0 ∧ s.selPit = 0 := by decide +kernel

theorem test_wit_other_registers : bit (2 : W32) 1 = true ∧ fld (8 : W32) 3 2 ≠ 3 ∧ up.trc.en = false ∧ up.cfg.debug = false ∧ fld (4 : W32) 3 2 = 1 ∧ up.pwr.onB = false ∧
    12 ≤ fld (12 : W32) 4 0 ∧ fld (30 : W32) 4 0 ≤ 30 ∧ fld (11 : W32) 4 0 < 12 ∧ 30 < fld (31 : W32) 4 0 ∧ (∀ q, (up.port q).en = false) ∧
    fld (0xFE : W32) 7 0 ≠ 0xFF ∧ ((up.modPort 3 fun x => { x with en := true }).port 3).en = true := by decide +kernel

/-- A push in S3 with the strap, and a repair map in S4. -/
theorem test_wit_push : let s : State := { State.reset with cfg := { stage := 3 }, straps := ⟨true, false, false, false, false, false⟩ }
    s.cfg.stage = 3 ∧ s.straps.perSrc = true ∧ s.cfg.pushDone = false ∧ s.cfg.push.length < 12 ∧ ({ s with cfg := { stage := 4 } } : State).cfg.rmapDone = false := by decide +kernel

theorem test_wit_resets : (up.cfg.done = true ∨ up.cfg.scope ≠ .cold) ∧ State.reset.cfg.done = false ∧ State.reset.cfg.scope = .cold ∧
    fld (0xF2 : W32) 2 0 = 2 ∧ fld (0xF2 : W32) 7 4 = (15 : Pitch).val ∧ fld (0x5F04 : W32) 2 0 = 4 ∧ fld (0x5F04 : W32) 14 8 = (95 : Slot).val ∧
    ((up.modCtx 95 fun c => { c with state := .loaded }).ctx 95).state = .loaded ∧ (up.ctx 95).state = .free := by decide +kernel

/-! ### Link -/

/-- Port 3 in a state, with more of it given. -/
def atPort (n : Nat) (f : Port → Port) : State := ({ up with mgmt := { up.mgmt with lnkSel := 3 } } : State).modPort 3 fun x => f { x with en := true, state := n }

/-- The last good TRAIN record of a peer of chip 1 with every lane good. -/
def trainRec : BitVec 256 := BitVec.ofNat 256 (0x1FF * 2 ^ 64 + 1 * 2 ^ 8)

theorem test_wit_training : let u : State := { up with mgmt := { up.mgmt with lnkSel := 3 } }
    u.mgmt.lnkSel = 3 ∧ (u.port 3).en = false ∧ fld (0x23 : W32) 5 4 ≠ 3 ∧ bit (0x23 : W32) 0 = true ∧ bit (0x23 : W32) 1 = true ∧ (atPort 5 id).linkOn = true ∧
    (let x := (atPort 1 fun x => { x with rxlock := 0x1FF }).port 3; ∀ l ∈ x.mapped, x.rxlock.getLsbD l = true) ∧
    4 ≤ ((atPort 2 fun x => { x with aligned := 4 }).port 3).aligned ∧ ((atPort 2 fun x => { x with aligned := 3 }).port 3).aligned < 4 ∧
    (let x := (atPort 3 fun x => { x with rxlock := 0x1FF, trainAcks := 8, trainRx := some trainRec }).port 3
     8 ≤ x.trainAcks ∧ x.loop = 0 ∧ fld trainRec 15 8 = 1 ∧ fld trainRec 15 8 ≠ up.mgmt.chip ∧
       ∀ l ∈ x.mapped, x.rxlock.getLsbD l = true ∧ (trainRec.extractLsb' 64 9).getLsbD l = true) ∧
    16 ≤ ((atPort 4 fun x => { x with tsCount := 16 }).port 3).tsCount ∧ ((atPort 0 fun x => { x with failed := true }).port 3).failed = true := by decide +kernel

theorem test_wit_lane_lost : let x := (atPort 4 fun x => { x with rxlock := 0x1FF, used := 0xFF, width := 4 }).port 3
    x.rxlock.getLsbD 7 = true ∧ 7 ∈ x.mapped ∧ x.swap = none ∧ x.width ≠ 8 := by decide +kernel

theorem test_wit_group_transmit : let x := (atPort 5 fun x => { x with reliable := [BitVec.ofNat 256 5] }).port 3
    x.resend = [] ∧ x.replay.length < 256 ∧ x.timed = [] ∧ x.txOpen = none ∧ x.vc0 = [] ∧ x.cvc < 3 ∧ timedSlot (BitVec.ofNat 256 5) = false ∧
    ((atPort 5 fun x => { x with reliable := [] }).port 3).reliable = [] ∧ up.dbg.stopped = false := by decide +kernel

/-- The parity of a single 1 is the generator polynomial, as IEEE 802.3 Clause 91 lists its coefficients. -/
theorem test_rs_parity_of_one : (rsParity [1]).map (·.toNat) = [575, 552, 187, 230, 552, 1, 108, 565, 282, 249, 593, 132, 94, 720, 495, 385, 942, 503, 883,
    361, 788, 610, 193, 392, 127, 185, 158, 128, 834, 523] := by decide +kernel
/-- Symbols in error by a multiple of the generator show no syndrome. -/
theorem test_rs_generator_has_no_syndrome : (rsSyndromes ((rsGenerator 30).zipIdx.map fun e => (543 - e.2, e.1))).all (· == 0) = true := by decide +kernel

/-- A DATA group of empty slots with SEQ 0 and its check word, and the same with a wrong one. -/
def grp0 : Group := { hdr := 0, slots := List.replicate 16 0, crc := 0 }
theorem test_wit_group_receive : gType grp0 = 0 ∧ bit grp0.hdr 83 = false ∧ gSeq grp0 = ((atPort 5 id).port 3).lastGood + 1 ∧ gSeq grp0 ≠ ((atPort 5 fun x => { x with lastGood := 0 }).port 3).lastGood + 1 ∧
    ((atPort 5 id).port 3).loop ≠ 1 := by decide +kernel
/-- Some check word is right, and another is wrong, for any header and slots. -/
theorem test_wit_group_crc (h : BitVec 112) (l : List (BitVec 256)) :
    (∃ g : Group, g.hdr = h ∧ g.slots = l ∧ crc32 (groupBytes g.hdr g.slots) = g.crc) ∧ ∃ g : Group, g.hdr = h ∧ g.slots = l ∧ crc32 (groupBytes g.hdr g.slots) ≠ g.crc := by
  refine ⟨⟨⟨h, l, crc32 (groupBytes h l)⟩, rfl, rfl, rfl⟩, ⟨⟨h, l, crc32 (groupBytes h l) + 1⟩, rfl, rfl, ?_⟩⟩
  intro e
  have e' : crc32 (groupBytes h l) = crc32 (groupBytes h l) + 1 := e
  have := congrArg BitVec.toNat e'
  simp only [BitVec.toNat_add] at this
  have hb := (crc32 (groupBytes h l)).isLt
  simp at this
  omega

theorem test_wit_replay : let x := (atPort 5 fun x => { x with replay := [(0, grp0)] }).port 3
    x.replay ≠ [] ∧ x.idleReplays < max 1 (fld x.replayReg 19 16) ∧ max 1 (fld x.replayReg 19 16) ≤ ((atPort 5 fun x => { x with idleReplays := 8 }).port 3).idleReplays := by decide +kernel

theorem test_wit_cut : let k : BitVec 256 := BitVec.ofNat 256 8
    cType k = 8 ∧ ctlClean k = true ∧ ((atPort 5 fun x => { x with rxHeld := [(3, k)] }).port 3).rxHeld = [(3, k)] := by decide +kernel

/-- LANE_SWAP of lane 7, an exchange with one direction done, and time-sync slots. -/
theorem test_wit_lane_swap : let c : CtlIn := ⟨BitVec.ofNat 256 (5 + 7 * 2 ^ 8), 0⟩
    let x := (atPort 5 fun x => { x with ctlIn := [c] }).port 3
    cType c.slot = 5 ∧ x.swap = none ∧ fld c.slot 23 16 = 0 ∧ fld c.slot 15 8 ∈ x.mapped ∧ (atPort 5 fun x => { x with ctlIn := [c] }).linkOn = true ∧
    (let w : LaneSwap := { lane := 7, txAt := 0, rxAt := some 0, rxDone := true }; w.txDone = false ∧ w.rxDone = true) := by decide +kernel

theorem test_wit_time_sync : cType (BitVec.ofNat 256 3) = 3 ∧ cType (BitVec.ofNat 256 4) = 4 ∧ ((atPort 4 id).port 3).state = 4 ∧ ((atPort 5 id).port 3).tsync = [] := by decide +kernel

/-- A chip that takes its Bells from port 3, with a marker of the next Bell, of another, and a BARRIER. -/
def linkedBell (t : Nat) (f : BellSt → BellSt) : State :=
  let s := atPort 5 fun x => { x with ctlIn := [⟨BitVec.ofNat 256 t, 0⟩] }
  { s with bel := f { s.bel with en := true, linked := true, upstream := 3, locked := true, running := true } }

theorem test_wit_markers : let s := linkedBell (1 + 1 * 2 ^ 64) id
    s.linkOn = true ∧ s.bel.upstream = 3 ∧ s.bel.missSaid = false ∧ cType (BitVec.ofNat 256 1) = 1 ∧ cType (BitVec.ofNat 256 2) = 2 ∧
    (readMarker (BitVec.ofNat 256 1)).bell ≠ s.bel.count + 1 ∧ s.bel.marker = none ∧ (linkedBell 2 fun b => { b with awaiting := some 0 }).bel.barrier = none := by decide +kernel

theorem test_wit_barriers : let s : State := { up with bel := { up.bel with en := true, master := true, awaiting := some 0 }, cfg := { up.cfg with zIn := true } }
    s.runs = true ∧ s.bel.barrier = none ∧ s.bellPortsUp = true ∧ up.cfg.zIn = false ∧ s.bel.waitSaid = false ∧
    ({ s with bel := { s.bel with barrier := some (0, 100000) } } : State).bel.barrierAgain < 100000 := by decide +kernel

/-- A linked member in service for step 6, its Bell past or to come; the slots VOTE, COMMIT and ABORT for it. -/
def memberState (t : Nat) (out : Nat) (held : Bool) : State :=
  (atPort 5 fun x => { x with ctlIn := [⟨BitVec.ofNat 256 (t + 6 * 2 ^ 64 + out * 2 ^ 128 + 7 * 2 ^ 32), 0⟩] }).modCtx 0 fun c =>
    { c with state := .loaded, id := 7, step := 6, slice := some slice0, group := { linked := true, decider := 0, members := 2 }, held := if held then some 1 else none }

theorem test_wit_vote : let s := memberState 6 0 false
    let c : BitVec 256 := BitVec.ofNat 256 (6 + 6 * 2 ^ 64 + 7 * 2 ^ 32)
    s.linkOn = true ∧ ((s.port 3).ctlIn.map (·.slot)) = [c] ∧ s.linkedCtx c = some 0 ∧ cType c = 6 ∧ (s.ctx 0).step.toNat = fld c 127 64 ∧ (s.ctx 0).decides s.mgmt.chip = true := by decide +kernel

theorem test_wit_decision : ∀ out ∈ [0, 1], ∀ held ∈ [true, false], let s := memberState 7 out held
    let c : BitVec 256 := BitVec.ofNat 256 (7 + 6 * 2 ^ 64 + out * 2 ^ 128 + 7 * 2 ^ 32)
    s.linkedCtx c = some 0 ∧ cType c = 7 ∧ (s.ctx 0).step.toNat = fld c 127 64 ∧ fld c 135 128 = out ∧ (s.ctx 0).held.isSome = held ∧ (s.ctx 0).inDoubt = false ∧ s.dbg.stopped = false ∧
    ({ s with dbg := { s.dbg with stopped := true } } : State).dbg.stopped = true := by decide +kernel

/-! ### Start-up, power and the wrapper -/

/-- A block in a stage of start-up, from the push or not. -/
def atStage (n : Nat) (src : Bool) : State := { State.reset with cfg := { stage := n }, straps := ⟨src, false, false, false, false, false⟩ }

theorem test_wit_stages : (∀ n ∈ [0, 1, 3, 4, 5, 6], (atStage n false).cfg.stage = n ∧ (atStage n false).cfg.done = false) ∧ le16 ([] : List Byte) 0x14 = 0 ∧
    (atStage 3 true).straps.perSrc = true ∧ (atStage 3 true).cfg.pushDone = false ∧ (atStage 4 false).cfg.rmapDone = false ∧ (atStage 4 false).errs.hard = [] ∧
    (atStage 4 false).straps.rmapWait = false ∧ ({ atStage 4 false with straps := ⟨false, true, false, false, false, false⟩ } : State).straps.rmapWait = true ∧
    (atStage 6 false).cfg.order = none ∧ (∃ d ∈ (atStage 6 false).cfg.domains.toList, d.write = false) ∧ (∀ d ∈ up.cfg.domains.toList, d.write = true) := by decide +kernel

/-- No personality at all fails its first check. -/
def reasonOf (x : Except Nat (W64 × Nat × List (Nat × List Byte))) : Nat := match x with | .error n => n | .ok _ => 0
theorem test_wit_personality : reasonOf ((atStage 3 false).perCheck none) ≠ 0 := by decide +kernel

/-- A personality image: its header around a tag, one FLAGS section, and the device's key. -/
def perKey : List Byte := List.replicate 32 1
def perIv : List Byte := List.replicate 12 0
def perPre : List Byte := [0x5A, 0x50, 0x45, 0x52, 0, 1, 0, 0, 16, 0, 0, 0, 0, 0, 0, 0, 0, 0, 0, 0, 0, 0, 0, 0]
def perPost : List Byte := [0, 0, 0, 0, 0, 0, 0, 0, 0, 0, 0, 0, 0, 0, 0, 0, 0, 0, 0, 0, 0, 0, 0, 0]
def perText : List Byte := let b : List Byte := [4, 0, 0, 0, 4, 0, 0, 0, 1, 0, 0, 0]; b ++ leBytes 4 (crc32c b).toNat
def perCipher : List Byte := gcmStream perKey perIv perText
def perTag : List Byte := gcmTag perKey perIv (perPre ++ perPost) perCipher
def perState : State := { atStage 3 false with fuse := { keys := [perKey, [], [], []] } }

theorem xorBytes_twice : ∀ (p k : List Byte), p.length ≤ k.length → xorBytes (xorBytes p k) k = p
  | [], _, _ => by simp [xorBytes]
  | a :: p, [], h => by simp at h
  | a :: p, b :: k, h => by
    have ih := xorBytes_twice p k (by simpa using h)
    have e : xorBytes (xorBytes (a :: p) (b :: k)) (b :: k) = (a ^^^ b ^^^ b) :: xorBytes (xorBytes p k) k := rfl
    rw [e, ih, BitVec.xor_assoc]; simp

/-- The key stream of the first block of text. -/
def perStream : List Byte := aesBlock perKey (counterBlock perIv 2)
theorem perStream_length : perStream.length = 16 := by decide +kernel
theorem gcmStream_block (p : List Byte) (h : p.length = 16) : gcmStream perKey perIv p = xorBytes p perStream := by
  unfold gcmStream
  have e : ceilDiv p.length 16 = 1 := by rw [h]; decide
  rw [e, List.range_one, List.flatMap_cons, List.flatMap_nil, List.append_nil, Nat.mul_zero, List.drop_zero, List.take_of_length_le (by omega)]
  rfl
theorem xorBytes_length (p k : List Byte) : (xorBytes p k).length = min p.length k.length := by simp [xorBytes]
theorem perText_length : perText.length = 16 := rfl
theorem perCipher_length : perCipher.length = 16 := by
  unfold perCipher; rw [gcmStream_block _ perText_length, xorBytes_length, perStream_length, perText_length]; rfl
theorem perPlain : gcmStream perKey perIv perCipher = perText := by
  rw [gcmStream_block _ perCipher_length]
  unfold perCipher
  rw [gcmStream_block _ perText_length, xorBytes_twice]
  exact Nat.le_of_eq (perText_length.trans perStream_length.symm)
theorem leBytes_length : ∀ n v, (leBytes n v).length = n
  | 0, _ => rfl
  | n + 1, v => by rw [leBytes, List.length_cons, leBytes_length n (v / 256)]
theorem perTag_length : perTag.length = 16 := by
  unfold perTag gcmTag gcmBytes; rw [List.length_reverse, leBytes_length]
theorem sixteen (l : List Byte) (h : l.length = 16) : ∃ t0 t1 t2 t3 t4 t5 t6 t7 t8 t9 t10 t11 t12 t13 t14 t15, l = [t0, t1, t2, t3, t4, t5, t6, t7, t8, t9, t10, t11, t12, t13, t14, t15] := by
  match l, h with
  | [t0, t1, t2, t3, t4, t5, t6, t7, t8, t9, t10, t11, t12, t13, t14, t15], _ => exact ⟨t0, t1, t2, t3, t4, t5, t6, t7, t8, t9, t10, t11, t12, t13, t14, t15, rfl⟩

theorem perImage_ok (t c : List Byte) (ht : t.length = 16) (hc : c.length = 16) :
    perImage (perPre ++ t ++ perPost ++ c) = some (perPre ++ t ++ perPost, c) := by
  have hp : (perPre ++ t ++ perPost).length = 64 := by rw [List.length_append, List.length_append, ht]; rfl
  have hl : (perPre ++ t ++ perPost ++ c).length = 80 := by rw [List.length_append, hp, hc]
  have ha : perPre ++ t ++ perPost ++ c = perPre ++ (t ++ (perPost ++ c)) := by rw [List.append_assoc, List.append_assoc]
  have s0 : ((perPre ++ t ++ perPost ++ c).drop 0).take 4 = [0x5A, 0x50, 0x45, 0x52] := by rw [ha]; rfl
  have s1 : ((perPre ++ t ++ perPost ++ c).drop 4).take 2 = [0, 1] := by rw [ha]; rfl
  have s2 : ((perPre ++ t ++ perPost ++ c).drop 6).take 2 = [0, 0] := by rw [ha]; rfl
  have s3 : ((perPre ++ t ++ perPost ++ c).drop 8).take 4 = [16, 0, 0, 0] := by rw [ha]; rfl
  have s4 : ((perPre ++ t ++ perPost ++ c).drop 48).take (64 - 48) = [0, 0, 0, 0, 0, 0, 0, 0, 0, 0, 0, 0, 0, 0, 0, 0] := by
    obtain ⟨t0, t1, t2, t3, t4, t5, t6, t7, t8, t9, t10, t11, t12, t13, t14, t15, rfl⟩ := sixteen t ht
    rfl
  have s5 : (perPre ++ t ++ perPost ++ c).take 64 = perPre ++ t ++ perPost := List.take_left' hp
  have s6 : ((perPre ++ t ++ perPost ++ c).drop 64).take 16 = c := by rw [List.drop_left' hp]; exact List.take_of_length_le (by omega)
  have e0 : le32 (perPre ++ t ++ perPost ++ c) 0 = 0x5245505A := by unfold le32; rw [s0]; decide
  have e1 : le16 (perPre ++ t ++ perPost ++ c) 4 = 0x0100 := by unfold le16; rw [s1]; decide
  have e2 : le16 (perPre ++ t ++ perPost ++ c) 6 = 0 := by unfold le16; rw [s2]; decide
  have e3 : le32 (perPre ++ t ++ perPost ++ c) 8 = 16 := by unfold le32; rw [s3]; decide
  have e4 : zeroBytes (perPre ++ t ++ perPost ++ c) 48 64 = true := by unfold zeroBytes; rw [s4]; decide
  have e5 : fld (0 : W16) 15 2 = 0 := by decide
  have e6 : (16 : W32).toNat = 16 := rfl
  unfold perImage
  rw [e0, e1, e2, e3, e4, e5, hl]
  simp only [e6, s5, s6]
  rfl

theorem ok_of_toOption {ε α : Type} (x : Except ε α) (y : α) (h : x.toOption = some y) : x = .ok y := by
  cases x with
  | error e => cases h
  | ok z => cases h; rfl

/-- The image of that text passes every check: there is a personality that S3 applies. -/
theorem test_wit_personality_ok : perState.perCheck (some (perPre ++ perTag ++ perPost ++ perCipher)) = .ok (0, 0, [(4, [1, 0, 0, 0])]) := by
  apply ok_of_toOption
  unfold State.perCheck
  rw [Option.bind_some, perImage_ok _ _ perTag_length perCipher_length]
  have h1 : (perPre ++ perTag ++ perPost).take 24 = perPre := by rw [List.append_assoc]; exact List.take_left' rfl
  have h2 : (perPre ++ perTag ++ perPost).drop 40 = perPost := List.drop_left' (by rw [List.length_append, perTag_length]; rfl)
  have h3 : ((perPre ++ perTag ++ perPost).drop 24).take 16 = perTag := by
    rw [List.append_assoc, List.drop_left' (by rfl : perPre.length = 24)]; exact List.take_left' perTag_length
  have h4 : ((perPre ++ perTag ++ perPost).drop 12).take 12 = perIv := by rw [List.append_assoc]; rfl
  have h5 : fld (le16 (perPre ++ perTag ++ perPost) 6) 1 0 = 0 := rfl
  have h6 : le64 (perPre ++ perTag ++ perPost) 40 = 0 := by unfold le64; rw [h2]; rfl
  have h7 : (perState.fuse.keys[0]?).getD [] = perKey := rfl
  simp only [h1, h2, h3, h4, h5, h6, h7]
  have h8 : gcmTag perKey perIv (perPre ++ perPost) perCipher = perTag := rfl
  simp only [h8, perPlain, ne_eq, not_true_eq_false, if_false]
  decide +kernel

theorem test_wit_power : up.cfg.stage = 7 ∧ up.ev.held = [] ∧ (let s : State := { up with pwr := { up.pwr with memPg := false } }; (s.pwr.aryPg && s.pwr.memPg) = false) ∧
    up.pwr.onB = false ∧ up.pwr.bLowSaid = false ∧ up.pwr.autoReturn = true ∧ up.pwr.forceB = false ∧ up.pwr.tlock = true ∧ up.pwr.flock = true ∧ up.pwr.alock = true ∧
    up.pwr.trans = none ∧ (let s : State := { up with pwr := { up.pwr with trans := some ⟨30, true, 140, 12, 0⟩, goal := 30 } }; s.clockTarget = s.pwr.goal) := by decide +kernel

/-- A block on B, and one whose A-loop has unlocked. -/
theorem test_wit_power_states : (let p : PwrSt := { up.pwr with onB := true }; p.onB = true ∧ p.autoReturn = true ∧ p.forceB = false) ∧
    (let p : PwrSt := { up.pwr with alock := false, gated := true }; p.alock = false ∧ p.gated = true) := by decide +kernel

theorem test_wit_wrapper : (∀ code ∈ [(1 : BitVec 4), 5], 1 ≤ code.toNat ∧ code.toNat ≤ 5) ∧ 7 ≤ (7 : BitVec 4).toNat ∧ 7 ≤ (15 : BitVec 4).toNat ∧ (6 : BitVec 4).toNat = 6 ∧
    (let s : State := { up with wrap := { hold := true, wir := 5 } }; s.wrap.hold = true ∧ s.wrap.wir = 5) ∧ State.reset.wrap.hold = false := by decide +kernel

theorem test_wit_wrapper_ok : State.reset.wrapperOk := by
  refine ⟨by decide, rfl, Or.inl rfl, fun h => ?_⟩
  cases h

/-! ### Memory ports and trace -/

/-- A beat of the host port, a clean beat of memory port 0 and one with an uncorrectable word. -/
def beat0 (port : Fin 17) (n : Nat) (w : BitVec 128) (err : BitVec 2) : Beat :=
  { port := port, who := .ctx 0, addr := 0, data := List.replicate n w, chk := if port = 16 then [] else List.replicate n 0, err := err }

theorem test_wit_beats : (beat0 16 8 0 0).wellFormed = true ∧ (beat0 0 16 0 0).wellFormed = true ∧
    (beat0 0 16 0 0).chk.length = (beat0 0 16 0 0).data.length ∧
    (beat0 16 8 0 1).err = 1 := by decide +kernel
theorem test_wit_clean_beat : ∀ x ∈ (beat0 0 16 0 0).data.zip (beat0 0 16 0 0).chk, eccDecode (beatWord x.1 x.2) = .clean := by
  have h : ((beat0 0 16 0 0).data.zip (beat0 0 16 0 0).chk).all (fun x => decide (eccDecode (beatWord x.1 x.2) = .clean)) = true := by decide +kernel
  intro x hx
  exact of_decide_eq_true (List.all_eq_true.mp h x hx)
theorem test_wit_bad_beat : ∃ x ∈ (beat0 0 16 0xFF 0).data.zip (beat0 0 16 0xFF 0).chk, eccDecode (beatWord x.1 x.2) = .uncorrectable :=
  ⟨(0xFF, 0), by simp [beat0], by decide +kernel⟩

/-- One write of a slice outstanding, all instances retired. -/
theorem test_wit_ack : let w : OutWrite := { port := 16, tag := 3, addr := 0, owner := .slice 0 0 1 }
    let s : State := { (inService (ent0 id) id).modCtx 0 fun c => { c with slice := some { slice0 with retired := 2 } } with outst := [w] }
    (s.outst.find? fun w => w.port == 16 && w.tag == 3 && !w.waits) = some w ∧ s.pwr.lost = false ∧ s.dbg.stopped = false ∧ (∀ y ∈ s.outst, y.waits = false) ∧
    ({ s with dbg := { s.dbg with stopped := true } } : State).dbg.stopped = true ∧ (s.ctx 0).image = some image0 ∧ image0.tasks ≤ 2 + slice0.skipped ∧ s.outst.erase w = [] ∧
    (∀ w ∈ s.outst, ¬ (w.port = 0 ∧ w.tag = 3)) ∧ (s.ctx 0).held = none ∧ (s.ctx 0).group.linked = false := by decide +kernel

/-- An open packet, a trace that runs with PC samples, and a ring with one unit and its last beat. -/
theorem test_wit_trace : let r : List Byte := List.replicate 32 0
    let s : State := { up with trc := { en := true, packet := [r], kinds := 0xFFF, pcsamp := 6, portEn := true, ring := [List.replicate 64 1], beat := 48 } }
    s.trc.packet.length ≤ 64 ∧ (∀ r ∈ s.trc.packet, r.length = 32) ∧ s.trc.heldPkt = none ∧ s.trc.lostSince = 0 ∧ s.trc.level ≤ 65000 ∧ s.runs = true ∧ s.trc.frozen = false ∧
    s.trc.left = none ∧ s.trc.kinds.getLsbD 3 = true ∧ 6 ≤ s.trc.pcsamp ∧ (s.core 71).retired = false ∧ s.trc.src ≠ 4 ∧ s.trc.policy ≠ 2 ∧ s.cfg.done = true := by decide +kernel

/-! ### Clauses beside the first of a statement -/

/-- SLD and SST name a ring inbox (R246). -/
theorem test_wit_ring_named : let k : Core := { handles := [{ slot := 0, h := 240, mem := 1, cls := 0, base := 0, size := 4 }] }
    k.ringNamed 0 240 = true ∧ k.ringNamed 0 2 = false := by decide +kernel

/-- An arrival ahead of the generation in force, an older one, and a second token for port 0. -/
theorem test_wit_arrival_ahead : serialCompare ({ arr0 with gen := 2 } : Arrival).gen 1 = .greater ∧ serialCompare 0 1 = .less ∧
    bit (ent0 fun e => { e with dataMask := 1 }).dataMask 0 = true ∧ bit (ent0 fun e => { e with skipMask := 1 }).skipMask 0 = true := by decide +kernel

/-- A token meets an instance that is there: the last skip of its ports, a skip beside data, the last data token, and a control token. -/
def meets (a : Arrival) (sm : W16) : Bool :=
  let e := ent0 fun e => { e with skipMask := sm }
  let s := inService e fun m => { m with arrivals := [a, arr0] }
  let k := s.ctx 0
  s.runs && decide (takeHigh Arrival.level s.mkt.arrivals = some (a, [arr0])) && !k.draining && decide (k.slice = some slice0) && a.gen == k.igen &&
  decide (k.image = some image0) && decide (s.mkt.instanceOf 0 0 = some (0, e)) && decide (s.mkt.tasks.find 0 = some e) && decide (e.rcd.ports ≤ 16) &&
  !(bit e.dataMask a.port || bit e.skipMask a.port)
theorem test_wit_counts_down : meets { arr0 with kind := 1 } 0 = true ∧ meets arr0 2 = true ∧ meets arr0 0 = true ∧ meets { arr0 with port := 16, kind := 2 } 0 = true := by
  decide +kernel

/-- A token for which the pool has no room. -/
theorem test_wit_pool_full : let s := ((inService (ent0 id) fun m => { m with arrivals := [arr0] }).modCtx 0 fun c => { c with quota := 0 }).modCtx 1 fun c => { c with quota := 65536 }
    s.mkt.live 0 + 1 ≤ image0.peakTokens ∧ ¬ (s.mkt.live 0 + s.mkt.ret 0 < (s.ctx 0).quota ∨ 0 < s.poolFree) ∧
    (∀ y ∈ s.mkt.tasks, y.2.slot = 0 → y.2.retained = false) := by decide +kernel

/-- The first token of task 1: its record good, bad and past the reservation of the image. -/
theorem test_wit_creation : let s := fun (r : TaskRec) => let s := (inService (ent0 id) fun m => { m with arrivals := [{ arr0 with task := 1 }] }).modCtx 0 fun c =>
        { c with image := some { image0 with addr := 4096, taskOff := 128, edgeCount := 1, cores := 1, kernelLen := 4 } }
      ({ s with devMem := s.devMem.writeBytes (4096 + 128 + 32) r.bytes } : State)
    let good := fun (r : TaskRec) =>
      let bs := (s r).taskBytes { image0 with addr := 4096, taskOff := 128 } 1
      !taskReserved bs && !(TaskRec.ofBytes bs).indexBad 1 1 1 4
    good { ports := 1, dep := 1, prio := 2 } = true ∧ good { ports := 2, dep := 2, prio := 2, kernel := 3 } = false ∧
    (s {}).mkt.instanceOf 0 1 = none ∧ (s {}).mkt.entries 0 < image0.peakTasks ∧ ({ image0 with peakTasks := 1 } : Image).peakTasks ≤ (s {}).mkt.entries 0 := by decide +kernel

/-- An output with a conditional edge that its POST may keep, may not keep and waits to keep; a message of an instance that is gone. -/
theorem test_wit_conditional_post : let im := fun n => { image0 with peakTokens := n, edges := [{ target := 1, port := 0, out := 0, cond := true, pred := 1, sense := true }] }
    let s := fun q n => ((inService (ent0 id) fun m => { m with inq := m.inq.put 0 [.post (inst0 4) 0 {}] }).modCtx 0 fun c => { c with quota := q, image := some (im n) }).modCtx 1 fun c =>
      { c with quota := 65536 - q }
    ((s 8 4).edges (ent0 id)).any (fun (d : EdgeRec) => d.port < 16 && d.out == 0 && d.cond) = true ∧ (s 8 4).mkt.live 0 + 1 ≤ (im 4).peakTokens ∧
    (s 8 4).mkt.live 0 + (s 8 4).mkt.ret 0 < ((s 8 4).ctx 0).quota ∧ (im 0).peakTokens ≤ (s 8 0).mkt.live 0 ∧
    ¬ ((s 0 4).mkt.live 0 + (s 0 4).mkt.ret 0 < ((s 0 4).ctx 0).quota ∨ 0 < (s 0 4).poolFree) ∧
    (inService (ent0 fun e => { e with gen := 2 }) id).entryOf (inst0 4) = none := by decide +kernel

/-- A retirement in a layer, with a held output for a conditional edge. -/
theorem test_wit_retirement_layer : let x := { inst0 4 with layer := 0 }
    let s := inService (ent0 fun e => { e with list := [7] }) fun m =>
      { m with inq := m.inq.put 0 [.retire x 2 {}], matching := [(7, { slot := 0, gen := 1, task := 0, port := 16, tok := { value := 6 } })] }
    s.entryOf x = some (ent0 fun e => { e with list := [7] }) ∧ takeHigh MktMsg.level (s.mkt.inq.get 0) = some (.retire x 2 {}, []) ∧ x.layer ≠ 0xFF ∧
    (s.ctx 0).slice = some slice0 := by decide +kernel

/-- Each mode without PREEMPT, and a block with nothing to dispatch. -/
theorem test_wit_dispatch_modes : ∀ md ∈ [(0 : BitVec 3), 1, 2, 3], let e := ent0 fun e => { e with state := 2 }
    let s := ((inService e fun m => { m with ready := m.ready.put 0 [0] }).modPit 0 fun p => { p with mode := md }).modSeq 0 fun q =>
      { q with mode := if bit md 1 then .take else .halt }
    bit (s.pit 0).mode 2 = false ∧ s.candidates 0 = [(0, e)] ∧ s.freeCores 0 = [(0, 0)] ∧ s.canRun 0 e 0 0 = true ∧ s.flowConflict 0 e = false := by decide +kernel
theorem test_wit_dispatch_idle : let s := inService (ent0 id) id
    (s.pit 0).state = 2 ∧ s.candidates 0 = [] ∧ ∀ p : Pitch, s.mkt.reserved.get p = none ∧ ((s.pit p).state = 2 → s.candidates p = []) := by decide +kernel

/-- What an admission makes of an image: one past the reserve, one for which the Market has no room, one that is admitted. -/
def admits (im : Image) : Admit := let s := dueState.modCtx 0 fun c => { c with image := some im }; s.admitCheck 0 im (s.bellBudget 0)
theorem test_wit_admission_checks : admits { image0 with commitTime := 100000000 } = .reject 0x2010 ∧ admits { image0 with peakTasks := 300000 } = .defer ∧
    admits image0 = .accept ∧ (dueState.pit 1).admitDue = false := by decide +kernel

/-- Asleep with EN and SLEEP_EN, kept awake by each of its reasons, and not armed. -/
theorem test_wit_sleep_clauses : let s : State := { up with hst := { up.hst with sleepArm := true, en := true, sleepEn := true } }
    s.runs = true ∧ s.hst.sleepArm = true ∧ (s.writing fun o => match o with | .shadow true => true | _ => false) = false ∧ s.hst.advanced = false ∧
    s.poll.hst.advanced = false ∧ s.pwr.lost = false ∧ up.hst.sleepArm = false ∧ ({ s with hst := { s.hst with sleepEn := false } } : State).hst.sleepEn = false := by decide +kernel

/-- An uncorrectable scratch word of a tensor of a slice in service, and of a constant tensor. -/
theorem test_wit_scratch_ue : ∀ cls ∈ [0, 2], let e : HEnt := { slot := 0, h := 1, mem := 0, cls := cls, base := 0, size := 4 }
    let s := (inService (ent0 id) id).modCore 0 fun k => { k with bankOn := 1, handles := [e] }
    (s.core 0).bankOn.getLsbD 0 = true ∧ (bankWord 0 3).1 < 3 ∧ ((s.core 0).handles.find? fun e => e.covers (bankWord 0 3).1 (bankWord 0 3).2) = some e ∧
    (s.ctx 0).state = .loaded ∧ (s.ctx 0).slice = some slice0 := by decide +kernel

/-- Queue instances of every kind of owner: the spill queue and the completion egress too, and one that has been reported. -/
theorem test_wit_queues : let s : State := { (up.modCtx 0 fun c => { c with spillq := [{ addr := 1, bytes := [0] }] }).modCore 0 fun k =>
        { k with inboxes := [{ slot := 0, num := 1, cap := 4, base := 0, occ := 2 }] } with
      cfg := { up.cfg with qstale := 0x7F000001 }, ev := { held := [{ comp := compOf (.slot 0) 0 0 [], waitFor := .writes }] } }
    ∀ q ∈ [({ kind := 5, index := 0, owner := none } : QueueRef), { kind := 4, index := 0, owner := none }, { kind := 2, index := 1, owner := some 0 }],
      bit s.cfg.qstale (24 + staleGroup q.kind.toNat) = true ∧ s.queueHolds (ownedRef q) = true ∧ ownedRef q ∉ s.cfg.staleSaid := by decide +kernel

/-- A full request queue; a NACK of TOO_LONG; a GRANT and a NACK that nothing waits for. -/
theorem test_wit_items : let h := { hdr0 kNack with gid := 31, reason := 4 }
    let e : GrantEnt := { slot := 0, igen := 3, hdr := {}, num := 0 }
    64 ≤ ((atItem (hdr0 kRequest) [] fun k => { k with reqq := List.replicate 64 (hdr0 kRequest) }).core 0).reqq.length ∧
    (let s := atItem h [] fun k => { k with grants := k.grants.putN 31 (some e) }; s.awaited 0 h = some e ∧ h.reason = 4 ∧ (s.ctx 0).state = .loaded) ∧
    (atItem h [] id).awaited 0 h = none ∧ (atItem { hdr0 kGrant with gid := 40 } [] id).awaited 0 { hdr0 kGrant with gid := 40 } = none := by decide +kernel

/-- A RESUME that reads its image again, and one whose image does not fit. -/
theorem test_wit_resume_reload : let s := withImage (atDesc (desc 8 0 [(16, [2])]) .torn [] fun c => { c with image := some { image0 with addr := 4096 }, reload := true })
    let t := atDesc (desc 8 0 [(16, [2])]) .torn [] fun c => { c with image := some { image0 with tasks := 300000, peakTasks := 300000, kernelLen := 100000 } }
    (s.ctx 0).reload = true ∧ (taken s .admin).2.2.roomCheck 0 { image0 with addr := 4096 } = none ∧ (taken s .admin).2.2.kernelPlace 0 0 = some 0 ∧
    (taken t .admin).2.2.kernelPlace 0 100000 = none := by decide +kernel

/-- An install whose banks are not on. -/
theorem test_wit_install_waits : let im : Image := { image0 with cores := 1, handles := [{ h := 1, mem := 0, cls := 0, size := 1, off := 0 }] }
    let s : State := ((({ up with bel := { up.bel with installs := [0] } } : State).modCtx 0 fun c =>
      { c with state := .opened, pending := some (im, compOf .admin 2 0 []) }).modPit 0 fun p => { p with mask := 1 }).modCore 0 fun k => { k with lcore := some 0 }
    s.bel.installs = [0] ∧ s.pendingBanksOn 0 = false ∧ ({ s with bel := { s.bel with installs := [] } } : State).installCheck 0 im = none := by decide +kernel

/-- A second BIND of a tensor outside a slice; one with no room; UNBIND; a COPY of a core that the image has not, and one that waits. -/
theorem test_wit_tensors : let b : Binding := ⟨9, 0, 0, 4096, false, false⟩
    let s := atDesc (desc 3 0 [(16, leBytes 4 9), (20, [2])]) .loaded [] fun c => { c with bindings := [b] }
    (s.ctx 0).slice = none ∧ ((s.ctx 0).bindings.find? fun b => b.tid == 9) = some b ∧ (let b : Binding := ⟨9, 0, 0, 2 ^ 62, false, true⟩; s.granulesFree < b.granules) ∧
    copyImage.cores < 1 + 2 ∧ copyImage.copyTargets 8 = [] ∧ ((copyState.modCtx 0 fun c => { c with slice := some slice0 }).ctx 0).slice ≠ none := by decide +kernel

/-- FENCE of the admin ring with nothing to wait for; a KILL of a context without a slice. -/
theorem test_wit_fence_at_once : let s := atDesc (desc 4 0 []) .loaded [] id
    (s.takeDesc .admin).isSome = true ∧ (taken s .admin).2.2.fenceWaits = false ∧ (s.ctx 0).slice = none := by decide +kernel

/-- A KILL behind the SUBMIT_SLICE that it ends, in the slot's own ring. -/
theorem test_wit_kill_ahead : let s := atDesc (desc 1 0 []) .loaded [(64, desc 5 0 [])] fun c =>
      { c with image := some image0, slice := some slice0, desc := some sub0, ring := { tail := 2 } }
    let q := s.ringOf (.slot 0)
    let next := s.descAt (.slot 0) ((q.head + 1) % 2 ^ 32)
    s.runs = true ∧ s.ringReads (.slot 0) = true ∧ s.cqRoom (.slot 0) = true ∧ (s.ctx 0).descAtHead = true ∧ (s.ctx 0).desc = some sub0 ∧ (s.ctx 0).slice = some slice0 ∧ (s.ctx 0).held = none ∧
    2 ≤ span 32 q.tail q.head ∧ q.ahead = false ∧ rowOf next = some 0x50 ∧ descReserved next = false ∧ dSlot next = some 0 ∧ s.unprivileged (.slot 0) next = false := by decide +kernel

/-- The Market's plan for slot 0, with a record that may come in, and with one that may not. -/
theorem test_wit_swap_market : ∀ r ∈ [record0, []], let s : State := { swapState r with mkt := { (swapState r).mkt with swapNow := [(0, 0)] } }
    (s.mkt.swapNow.find? fun p => p.2 == (0 : Slot)) = some (0, 0) ∧ (s.ctx 0).state = .free ∧ swapReady (s.swapRecord 0) = decide (r = record0) ∧
    ({ s with mkt := { s.mkt with swapNow := s.mkt.swapNow.erase (0, 0) } } : State).recordTaken 0 = false := by decide +kernel
theorem test_wit_swap_fails : (swapState (bytesOf 128 [(0, leBytes 4 7), (4, leBytes 4 0xC0000000), (32, leBytes 8 8192), (80, [6, 6])])).pwr.lost = false ∧
    (ImageFile.ofHeader ((swapState record0).devRead 8192 128)).identity = some 0xA201 ∧ (swapState record0).recordTaken 0 = false ∧
    ((swapState record0).modCtx 1 fun c => { c with state := .loaded, policy := { c.policy with swapIndex := 0 } }).recordTaken 0 = true := by decide +kernel

/-- BRK_ARM with BELL_HOLD for a core that is halted; a RESUME of ALL. -/
theorem test_wit_breakpoint_hold : let s : State := { debugState (desc 9 0 [(16, [1, 1])]) true with cfg := { up.cfg with debug := true } }
    let t := debugState (desc 9 0 [(16, [3, 4])]) true
    bit (le16 (taken s .admin).1 17) 0 = true ∧ s.cfg.debug = true ∧ s.bel.master = false ∧ s.bel.linked = false ∧ s.dbg.holdFrom = none ∧ s.haltedIn 0 0 = true ∧
    (t.takeDesc .admin).isSome = true ∧ bit (le16 (taken t .admin).1 17) 2 = true ∧ t.ctxCores 0 = [0] ∧ t.haltedIn 0 0 = true := by decide +kernel

/-- The descriptors that name no context name slot 0, and a resume barred by a port that is UP. -/
theorem test_wit_slots_named : (∀ k ∈ [5, 6, 7, 8, 9], dSlot (taken (atDesc (desc 9 0 [(16, [BitVec.ofNat 8 k])]) .free [] id) .admin).1 = some 0) ∧
    dSlot (taken (atDesc (desc 2 0 [(24, [1])]) .free [] id) .admin).1 = some 0 ∧
    (let s : State := ({ up with dbg := { stopped := true, stopAt := 3 } } : State).modPort 0 fun p => { p with state := 5 }
     s.dbg.stopped = true ∧ s.mayResume = false ∧ s.ev.windows = [] ∧ s.evRoom = false) ∧ (∀ p, (up.port p).rxHeld = []) := by decide +kernel

/-- Values of the selectors and of the power registers at their bounds. -/
theorem test_wit_register_bounds : fld (254 : W32) 7 0 < 255 ∧ bit (0x80FF0000 : W32) 31 = true ∧ fld (0x005F0012 : W32) 22 16 < 96 ∧ fld (0x20 : W32) 4 0 = 0 ∧
    12 ≤ fld (12 : W32) 4 0 ∧ fld (30 : W32) 4 0 ≤ 30 ∧ 12 ≤ fld (0x000C003C : W32) 20 16 ∧ fld (0x001E0068 : W32) 20 16 ≤ 30 ∧
    60 ≤ fld (0x000C003C : W32) 7 0 ∧ fld (0x001E0068 : W32) 7 0 ≤ 104 ∧ ({ up with cfg := { up.cfg with det := true } } : State).cfg.det = true := by decide +kernel

/-- A lane exchange that one direction has done, and one that neither has. -/
theorem test_wit_lane_swap_sides : ∀ b ∈ [true, false], let w : LaneSwap := { lane := 2, txAt := 5, rxAt := some 5, txDone := b }
    ((atPort 5 fun x => { x with swap := some w }).port 3).swap = some w ∧ w.rxDone = false ∧ w.rxAt ≠ none ∧ w.txDone = b := by decide +kernel

/-- Start-up in S1 before its end, and in S2; a port that stands parked. -/
theorem test_wit_stage_two : (atStage 1 false).cfg.stageAt + 43691 > (atStage 1 false).clk.time ∧ le16 [] 0x14 = 0 ∧ (atStage 2 false).cfg.stage = 2 ∧
    ({ up with pwr := { up.pwr with lost := true } } : State).pwr.lost = true ∧ up.pwr.lost = false := by decide +kernel

/-- A context that is TORN, at its reset. -/
theorem test_wit_reset_torn : ((up.modCtx 95 fun c => { c with state := .torn }).ctx 95).state = .torn ∧ fld (0x5F04 : W32) 14 8 = 95 := by decide +kernel

/-! ### The whole block -/

theorem test_wit_front : ({ up with pending := [.bell] } : State).pending = [.bell] ∧ up.pending = [] := by decide

end Sys2Proof.Tests
end

/-! ## The Bell's registers and its timer, and what a Bell does to them (R18 to R20)

Every operation that the rows of a Bell use leaves the registers and the timer of the Bell; most leave the whole of its unit. -/

namespace Sys2Proof.Machine

section

/-- The registers and the timer of the Bell, without what the work of a Bell notes beside them: the values in force from the
next-Bell registers, the time of the Bell, what it still has to do, and the counts of its trace record. -/
def BellSt.timer (b : BellSt) : BellSt :=
  { b with reserve := 0, guard := 0, last := 0, open_ := false, installs := [], tallyCounts := (0, 0, 0, 0) }

/-! Two Bells with one timer agree on each register and on the count. -/

theorem BellSt.count_of_timer {b d : BellSt} (h : b.timer = d.timer) : b.count = d.count := (congrArg BellSt.count h :)
theorem BellSt.period_of_timer {b d : BellSt} (h : b.timer = d.timer) : b.period = d.period := (congrArg BellSt.period h :)
theorem BellSt.periodReg_of_timer {b d : BellSt} (h : b.timer = d.timer) : b.periodReg = d.periodReg := (congrArg BellSt.periodReg h :)
theorem BellSt.periodNext_of_timer {b d : BellSt} (h : b.timer = d.timer) : b.periodNext = d.periodNext := (congrArg BellSt.periodNext h :)
theorem BellSt.linked_of_timer {b d : BellSt} (h : b.timer = d.timer) : b.linked = d.linked := (congrArg BellSt.linked h :)
theorem BellSt.master_of_timer {b d : BellSt} (h : b.timer = d.timer) : b.master = d.master := (congrArg BellSt.master h :)
theorem BellSt.barrier_of_timer {b d : BellSt} (h : b.timer = d.timer) : b.barrier = d.barrier := (congrArg BellSt.barrier h :)
theorem BellSt.stopSent_of_timer {b d : BellSt} (h : b.timer = d.timer) : b.stopSent = d.stopSent := (congrArg BellSt.stopSent h :)

@[simp] theorem BellSt.timer_open (b : BellSt) (x : Bool) : { b with open_ := x }.timer = b.timer := rfl
@[simp] theorem BellSt.timer_installs (b : BellSt) (x : List Slot) : { b with installs := x }.timer = b.timer := rfl

/-- What every step of a fold keeps, the fold keeps. -/
theorem foldl_keeps {σ α β : Type} (g : σ → β) (f : σ → α → σ) (h : ∀ s a, g (f s a) = g s) (l : List α) (s : σ) :
    g (l.foldl f s) = g s := by
  induction l generalizing s with
  | nil => rfl
  | cons a l ih => exact (ih _).trans (h s a)

@[simp] theorem foldl_bel {α : Type} (f : State → α → State) (h : ∀ s a, (f s a).bel = s.bel) (l : List α) (s : State) :
    (l.foldl f s).bel = s.bel := foldl_keeps State.bel f h l s

@[simp] theorem foldl_timer {α : Type} (f : State → α → State) (h : ∀ s a, (f s a).bel.timer = s.bel.timer) (l : List α) (s : State) :
    (l.foldl f s).bel.timer = s.bel.timer := foldl_keeps (·.bel.timer) f h l s

/-! A fold that changes one unit at a time leaves the Bell as it is. -/

@[simp] theorem foldl_modCtx_bel {α : Type} (g : State → α → Slot) (f : State → α → Ctx → Ctx) (l : List α) (s : State) :
    (l.foldl (fun s a => s.modCtx (g s a) (f s a)) s).bel = s.bel := foldl_bel _ (fun _ _ => by rfl) l s
@[simp] theorem foldl_modSeq_bel {α : Type} (g : State → α → PCore) (f : State → α → Seq → Seq) (l : List α) (s : State) :
    (l.foldl (fun s a => s.modSeq (g s a) (f s a)) s).bel = s.bel := foldl_bel _ (fun _ _ => by rfl) l s
@[simp] theorem foldl_modPit_bel {α : Type} (g : State → α → Pitch) (f : State → α → PitchSt → PitchSt) (l : List α) (s : State) :
    (l.foldl (fun s a => s.modPit (g s a) (f s a)) s).bel = s.bel := foldl_bel _ (fun _ _ => by rfl) l s
@[simp] theorem foldl_modPort_bel {α : Type} (g : State → α → LPort) (f : State → α → Port → Port) (l : List α) (s : State) :
    (l.foldl (fun s a => s.modPort (g s a) (f s a)) s).bel = s.bel := foldl_bel _ (fun _ _ => by rfl) l s

variable (s : State)

/-! ### What leaves the Bell as it is: reports, counters, the rings -/

@[simp] theorem count_bel (n k : Nat) : (s.count n k).bel = s.bel := (count_only s n k).bel
@[simp] theorem hang_bel (o : W16) (sub e slot : Nat) (d : W64) : (s.hang o sub e slot d).bel = s.bel := (hang_only s o sub e slot d).bel
@[simp] theorem taken_bel (kind index : Nat) (o : Option Slot) : (s.taken kind index o).bel = s.bel := (taken_only s kind index o).bel
@[simp] theorem trace_bel (kind slot : Nat) (o : W16) (body : List Byte) : (s.trace kind slot o body).bel = s.bel := (trace_only s kind slot o body).bel
@[simp] theorem triggerTrace_bel : s.triggerTrace.bel = s.bel := (triggerTrace_only s).bel
@[simp] theorem evDrain_bel (n : Nat) : (s.evDrain n).bel = s.bel := (evDrain_only n s).bel
@[simp] theorem report_bel (r : Report) (torn : Bool) : (s.report r torn).bel = s.bel := (report_only s r torn).bel
@[simp] theorem note_bel (code : W16) (d : Nat) : (s.note code d).bel = s.bel := (note_only s code d).bel
@[simp] theorem noteCtx_bel (code : W16) (i : Slot) (d : Nat) : (s.noteCtx code i d).bel = s.bel := (noteCtx_only s code i d).bel
@[simp] theorem hostWrite_bel (a : Nat) (bs : List Byte) (o : WOwner) : (s.hostWrite a bs o).bel = s.bel := (hostWrite_only s a bs o).bel

@[simp] theorem takeFree_bel : s.takeFree.2.bel = s.bel := rfl
@[simp] theorem bumpEpoch_bel (n : Nat) : (s.bumpEpoch n).bel = s.bel := rfl
@[simp] theorem pruneStale_bel : s.pruneStale.bel = s.bel := by
  unfold State.pruneStale; split <;> rfl

/-! Time -/

@[simp] theorem countCycles_bel (n a : Nat) : (s.countCycles n a).bel = s.bel := by
  simp only [State.countCycles]
  split
  · rfl
  · split
    · rfl
    · split <;> simp

@[simp] theorem noteOverdue_bel : s.noteOverdue.bel = s.bel := by
  simp only [State.noteOverdue]
  split <;> simp

@[simp] theorem ramsWritten_bel : s.ramsWritten.bel = s.bel := by
  simp only [State.ramsWritten]
  split <;> rfl

@[simp] theorem moveClk_bel (c : ClkSt) : (s.moveClk c).bel = s.bel := by simp [State.moveClk]

/-- The passing of time leaves the Bell as it is. -/
@[simp] theorem advanceTo_bel (t : Nat) : (s.advanceTo t).bel = s.bel := by
  unfold State.advanceTo
  split <;> simp

/-! Off-block memory -/

@[simp] theorem countPort_bel (p : Fin 17) (w : Bool) (n : Nat) : (s.countPort p w n).bel = s.bel := by
  unfold State.countPort
  split <;> simp

@[simp] theorem readTagged_bel (p : Fin 17) (addr n : Nat) (pasid : Option (BitVec 20)) : (s.readTagged p addr n pasid).bel = s.bel :=
  countPort_bel s p false n

@[simp] theorem readReq_bel (host : Bool) (addr n : Nat) (who : Requester) : (s.readReq host addr n who).bel = s.bel := by
  unfold State.readReq
  split <;> simp

@[simp] theorem place_bel (w : OutWrite) : (s.place w).bel = s.bel := by
  unfold State.place
  split <;> rfl

@[simp] theorem putWrite_bel (w : OutWrite) : (s.putWrite w).1.bel = s.bel := by
  unfold State.putWrite
  split <;> simp

@[simp] theorem outWrite_bel (w : OutWrite) : (s.outWrite w).bel = s.bel := by
  simp only [State.outWrite]
  split
  · rfl
  · split <;> simp

@[simp] theorem devWrite_bel (addr : Nat) (bs : List Byte) (o : WOwner) : (s.devWrite addr bs o).bel = s.bel := by
  simp [State.devWrite, State.beatOut]

@[simp] theorem countRd_bel (i : Slot) (addr n : Nat) : (s.countRd i addr n).bel = s.bel := by simp [State.countRd, State.countWait]
@[simp] theorem countWr_bel (i : Slot) (addr n : Nat) : (s.countWr i addr n).bel = s.bel := by simp [State.countWr, State.countWait]

/-! Host rings -/

@[simp] theorem modRing_bel (r : Ring) (f : RingSt → RingSt) : (s.modRing r f).bel = s.bel := by cases r <;> rfl

@[simp] theorem advance_bel (c : CompRef) : (s.advance c).bel = s.bel := by
  unfold State.advance
  split
  · rfl
  · split <;> simp

@[simp] theorem writeComp_bel (c : CompRef) (code : W16) (step : W64) (vbuf : W32) : (s.writeComp c code step vbuf).bel = s.bel := by
  simp only [State.writeComp, State.writeEntry]
  split <;> simp

@[simp] theorem complete_bel (c : CompRef) (code : W16) (step : W64) (vbuf : W32) : (s.complete c code step vbuf).bel = s.bel := by
  unfold State.complete
  split <;> simp

@[simp] theorem finish_bel (c : CompRef) (code : W16) (step : W64) (vbuf : W32) : (s.finish c code step vbuf).bel = s.bel := by
  simp only [State.finish]
  split <;> simp

@[simp] theorem tlDrain_bel : ∀ (n : Nat) (s : State), (s.tlDrain n).bel = s.bel
  | 0, _ => rfl
  | n + 1, s => by
    unfold State.tlDrain
    split
    · rfl
    · simp only []
      split
      · rfl
      · simp [tlDrain_bel n]

@[simp] theorem queueTally_bel (t : List Byte) : (s.queueTally t).bel = s.bel := by
  unfold State.queueTally
  split <;> simp

@[simp] theorem tallyLoss_bel : s.tallyLoss.bel = s.bel := by
  unfold State.tallyLoss
  split <;> simp

@[simp] theorem pollRing_bel (r : Ring) : (s.pollRing r).bel = s.bel := by
  simp only [State.pollRing]
  split
  · simp
  · split
    · simp
    · split <;> split <;> simp

@[simp] theorem poll_bel : s.poll.bel = s.bel := by simp [State.poll]

@[simp] theorem writeShadow_bel (b : Bool) : (s.writeShadow b).bel = s.bel := by
  unfold State.writeShadow
  split <;> simp

@[simp] theorem msi?_bel (v : Option (BitVec 11)) : (s.msi? v).bel = s.bel := by
  cases v with
  | none => rfl
  | some v =>
    simp only [State.msi?, State.msi]
    split <;> rfl

@[simp] theorem bellIrqs_bel : s.bellIrqs.bel = s.bel := by
  have ring : ∀ (t : State) (r : Ring), (if (t.ringOf r).irq = {} then t else
      (t.modRing r fun x => { x with irq := ((t.ringOf r).irq.bell (t.compVec r) (t.ringOf r).cqHead).2 }).msi?
        ((t.ringOf r).irq.bell (t.compVec r) (t.ringOf r).cqHead).1).bel = t.bel := fun t r => by
    split <;> simp
  simp [State.bellIrqs, ring]

@[simp] theorem bellPoll_bel : s.bellPoll.bel = s.bel := by
  unfold State.bellPoll
  split <;> simp

@[simp] theorem reportCe_bel : s.reportCe.bel = s.bel := by simp [State.reportCe]

@[simp] theorem bellReports_bel : s.bellReports.bel = s.bel := by
  simp only [State.bellReports, reportCe_bel]
  split <;> simp [apply_ite State.bel]

/-! Tensors and completions that wait -/

@[simp] theorem bind_bel (i : Slot) (d : List Byte) : (s.bind i d).1.bel = s.bel := by
  simp [State.bind, apply_ite Prod.fst, apply_ite State.bel]

@[simp] theorem fillHandle_bel (i : Slot) (c : PCore) (e : HEnt) (bs : List Byte) : (s.fillHandle i c e bs).bel = s.bel := by
  unfold State.fillHandle
  refine foldl_bel _ (fun t p => ?_) _ _
  rfl

@[simp] theorem copyRead_bel (i : Slot) (host : Bool) (addr n : Nat) : (s.copyRead i host addr n).2.bel = s.bel := by
  unfold State.copyRead
  split <;> simp

@[simp] theorem copyFrom_bel (i : Slot) (src : CopySrc) : (s.copyFrom i src).bel = s.bel := by
  unfold State.copyFrom
  split
  · rfl
  · refine foldl_bel _ (fun t n => ?_) _ _
    split
    · rfl
    · refine foldl_bel _ (fun t h => ?_) _ _
      split <;> simp

@[simp] theorem copy_bel (i : Slot) (d : List Byte) : (s.copy i d).1.bel = s.bel := by
  simp only [State.copy]
  split
  · rfl
  · split
    · rfl
    · simp [apply_ite State.bel]

@[simp] theorem tensorOp_bel (i : Slot) (d : List Byte) : (s.tensorOp i d).1.bel = s.bel := by
  unfold State.tensorOp
  split
  · simp
  · simp
  · rfl

@[simp] theorem unhold_bel (h : HeldComp) : (s.unhold h).bel = s.bel := rfl
@[simp] theorem emptySlot_bel (i : Slot) : (s.emptySlot i).bel = s.bel := rfl
@[simp] theorem closeEnd_bel (i : Slot) (c : CompRef) : (s.closeEnd i c).bel = s.bel := by simp [State.closeEnd]

@[simp] theorem egressTaken_bel (c : CompRef) : (s.egressTaken c).bel = s.bel := by
  unfold State.egressTaken
  split <;> simp

@[simp] theorem settleOne_bel (h : HeldComp) : (s.settleOne h).bel = s.bel := by
  simp only [State.settleOne]
  split
  · split <;> simp
  · split
    · simp
    · split <;> simp
  · split
    · simp
    · split <;> simp
  · split <;> simp

@[simp] theorem settleFence_bel : s.settleFence.bel = s.bel := by
  unfold State.settleFence
  split
  · rfl
  · simp [apply_ite State.bel]

/-- The completions that a Bell lets go leave the Bell as it is. -/
@[simp] theorem settle_bel : s.settle.bel = s.bel := by simp [State.settle]

/-! Messages -/

@[simp] theorem noRoute_bel (src slot : Nat) : (s.noRoute src slot).bel = s.bel := by simp [State.noRoute]
@[simp] theorem queueItem_bel (p : LPort) (src : Nat) (it : Item) : (s.queueItem p src it).bel = s.bel := rfl

@[simp] theorem toCore_bel (it : Item) : (s.toCore it).2.bel = s.bel := by
  unfold State.toCore
  split
  · split <;> rfl
  · rfl

@[simp] theorem answerItem_bel (h : MsgHdr) (reason : Nat) : (s.answerItem h reason).bel = s.bel := by
  simp only [State.answerItem]
  split
  · simp
  · split <;> simp

@[simp] theorem dropItem_bel (src : Nat) (it : Item) : (s.dropItem src it).bel = s.bel := by
  simp [State.dropItem, apply_ite State.bel]

@[simp] theorem sendItem_bel (src : Nat) (it : Item) : (s.sendItem src it).bel = s.bel := by
  have arrived := toCore_bel s it
  unfold State.sendItem
  split
  · split
    next t e => rwa [e] at arrived
    next t e =>
      rw [e] at arrived
      exact (by simp [apply_ite State.bel] : _ = t.bel).trans arrived
  · split <;> simp

@[simp] theorem dropMsg_bel (c : PCore) (h : MsgHdr) (reason : Nat) : (s.dropMsg c h reason).bel = s.bel := by
  simp only [State.dropMsg, State.nack, sendItem_bel]
  split <;> simp

@[simp] theorem dropReqs_bel (l : List (PCore × MsgHdr)) : (s.dropReqs l).bel = s.bel := by simp [State.dropReqs]

@[simp] theorem sendCtl_bel (src dst : Nat) (slot : BitVec 256) : (s.sendCtl src dst slot).bel = s.bel := by
  unfold State.sendCtl
  split <;> simp

@[simp] theorem sendDecision_bel (i : Slot) (ok : Bool) : (s.sendDecision i ok).bel = s.bel := by simp [State.sendDecision]

@[simp] theorem sendMarker_bel (slot : BitVec 256) (but : Option LPort) : (s.sendMarker slot but).bel = s.bel := by simp [State.sendMarker]

/-! ### The end of a slice and of a context -/

@[simp] theorem oweWrites_bel (i : Slot) (c : CompRef) : (s.oweWrites i c).bel = s.bel := rfl

@[simp] theorem endSubmit_bel (i : Slot) (code : W16) (step : W64) : (s.endSubmit i code step).bel = s.bel := by
  unfold State.endSubmit
  split <;> simp

@[simp] theorem endDesc_bel (i : Slot) (code : W16) : (s.endDesc i code).bel = s.bel := endSubmit_bel s i code _

@[simp] theorem hangKills_bel (i : Slot) : (s.hangKills i).bel = s.bel := by
  refine foldl_bel _ (fun t c => ?_) _ s
  simp only []
  split
  · split <;> simp
  · rfl

@[simp] theorem flushOwn_bel (i : Slot) (killed : Bool) : (s.flushOwn i killed).bel = s.bel := by
  simp [State.flushOwn, apply_ite State.bel]

@[simp] theorem countBell_timer (f : Nat × Nat × Nat × Nat → Nat × Nat × Nat × Nat) : (s.countBell f).bel.timer = s.bel.timer := rfl

@[simp] theorem releaseHold_timer : s.releaseHold.bel.timer = s.bel.timer := by
  unfold State.releaseHold
  split
  · rfl
  · split <;> rfl

/-- A kill leaves the registers and the timer of the Bell: it moves the Bell's time where it ends a hold, and it is counted. -/
@[simp] theorem killSlice_timer (i : Slot) : (s.killSlice i).bel.timer = s.bel.timer := by
  simp only [State.killSlice]
  split <;> simp

@[simp] theorem dropPending_timer (i : Slot) (code : W16) : (s.dropPending i code).bel.timer = s.bel.timer := by
  unfold State.dropPending
  split
  · simp [BellSt.timer]
  · rfl

/-- So does a teardown. -/
@[simp] theorem teardown_timer (i : Slot) (code : W16) (d : BitVec 128) (o : W16) (c : Option PCore) :
    (s.teardown i code d o c).bel.timer = s.bel.timer := by
  have swapIn : ∀ t : State, (match (t.ctx i).swapIn with
      | some w => match w.comp with | some c => t.finish c code | none => t
      | none => t).bel = t.bel := fun t => by
    split
    · split <;> simp
    · rfl
  have evict : ∀ t : State, (match (t.ctx i).evict with
      | some e => match e.comp with | some c => t.finish c 0x3110 | none => t
      | none => t).bel = t.bel := fun t => by
    split
    · split <;> simp
    · rfl
  unfold State.teardown
  split
  · rfl
  · simp
  · have ended : (((((s.report { code := code, slot := i.val, origin := o, detail := d, core := c } true).killSlice i).flushOwn i
        (s.ctx i).slice.isSome).endDesc i code).dropPending i).bel.timer = s.bel.timer := by simp
    simp only [modCtx_bel]
    generalize State.dropPending _ _ _ = t at ended ⊢
    exact (congrArg BellSt.timer ((evict _).trans (swapIn t))).trans ended


@[simp] theorem dropImage_bel (i : Slot) : (s.dropImage i).bel = s.bel := rfl
@[simp] theorem freeSlot_bel (i : Slot) : (s.freeSlot i).bel = s.bel := rfl
@[simp] theorem park_bel (i : Slot) (r : Nat) : (s.park i r).bel = s.bel := rfl

@[simp] theorem evictEnd_timer (i : Slot) : (s.evictEnd i).bel.timer = s.bel.timer := by
  simp only [State.evictEnd]
  split
  · rfl
  · split
    · rfl
    · split
      · simp
      · split <;> simp

@[simp] theorem evictMark_bel (i : Slot) : (s.evictMark i).bel = s.bel := by
  simp only [State.evictMark]
  split
  · rfl
  · simp [apply_ite State.bel]

@[simp] theorem evictStart_timer (i : Slot) : (s.evictStart i).bel.timer = s.bel.timer := by
  simp only [State.evictStart]
  split
  · rfl
  · split
    · rfl
    · simp [apply_ite State.bel]

/-! ### Commit and overrun -/

@[simp] theorem agreeZero_bel (i : Slot) (n : Nat) : (s.agreeZero i n).bel = s.bel := rfl

@[simp] theorem mergeCtx_bel (i : Slot) : (s.mergeCtx i).bel = s.bel := by
  unfold State.mergeCtx
  split
  · rfl
  · refine foldl_bel _ (fun t n => ?_) _ _
    have merged : ∀ l : List PCore, (l.foldl (fun x c => (x.1.modCore c fun _ => ((x.1.core c).merge i n).1, x.2 + ((x.1.core c).merge i n).2))
        (t, 0)).1.bel = t.bel := fun l => foldl_keeps (fun x : State × Nat => x.1.bel) _ (fun _ _ => by rfl) l (t, 0)
    simp [apply_ite State.bel, merged]

@[simp] theorem updateFormats_bel (i : Slot) : (s.updateFormats i).bel = s.bel := by
  unfold State.updateFormats
  split
  · rfl
  · refine foldl_bel _ (fun t j => ?_) _ s
    split
    · rfl
    · simp [apply_ite State.bel]

/-- A commit leaves the registers and the timer of the Bell: it is counted. -/
@[simp] theorem commit_timer (i : Slot) : (s.commit i).bel.timer = s.bel.timer := by simp [State.commit]

@[simp] theorem overrun_timer (i : Slot) (b : Bool) : (s.overrun i b).bel.timer = s.bel.timer := by
  simp [State.overrun, apply_ite State.bel, apply_ite BellSt.timer]

@[simp] theorem groupDecide_timer (i : Slot) : (s.groupDecide i).bel.timer = s.bel.timer := by
  simp [State.groupDecide, apply_ite State.bel, apply_ite BellSt.timer]

@[simp] theorem noSlice_bel (i : Slot) : (s.noSlice i).bel = s.bel := by
  unfold State.noSlice
  split <;> simp

/-- Whatever a Bell does to a slice, it leaves the registers and the timer of the Bell. -/
@[simp] theorem bellSlice_timer (i : Slot) : (s.bellSlice i).bel.timer = s.bel.timer := by
  simp only [State.bellSlice]
  split
  · simp
  · simp [apply_ite State.bel, apply_ite BellSt.timer]

/-! ### Tallies and registers -/

@[simp] theorem putTally_bel (i : Slot) (t : List Byte) : (s.putTally i t).bel = s.bel := queueTally_bel s t

@[simp] theorem closedTallies_bel (i : Slot) : (s.closedTallies i).bel = s.bel := by
  simp [State.closedTallies, apply_ite State.bel]

@[simp] theorem tallyOutcome_bel (i : Slot) : (s.tallyOutcome i).2.bel = s.bel := by
  simp only [State.tallyOutcome]
  split
  · rfl
  · split <;> rfl

@[simp] theorem tally_bel (i : Slot) : (s.tally i).bel = s.bel := by
  simp only [State.tally, modCtx_bel]
  split <;> simp

@[simp] theorem loadPitch_bel (p : Pitch) : (s.loadPitch p).bel = s.bel := by
  simp [State.loadPitch, apply_ite State.bel]

@[simp] theorem loadRegs_timer : s.loadRegs.bel.timer = s.bel.timer := rfl

/-- The first rows of a Bell leave its registers and its timer. -/
@[simp] theorem bellRows_timer : s.bellRows.bel.timer = s.bel.timer := by
  simp [State.bellRows]

/-! ### Swap, spares, banks and the array clock -/

@[simp] theorem swapScan_bel (n : Nat) : (s.swapScan n).bel = s.bel := by
  simp [State.swapScan, apply_ite State.bel]

@[simp] theorem swapScanBell_bel : s.swapScanBell.bel = s.bel := by
  simp [State.swapScanBell, apply_ite State.bel]

@[simp] theorem writeMap_bel : s.writeMap.bel = s.bel := by
  unfold State.writeMap
  split <;> simp

@[simp] theorem addEntry_bel (e : W64) : (s.addEntry e).bel = s.bel := by simp [State.addEntry]

@[simp] theorem exhaust_bel (e : W64) : (s.exhaust e).bel = s.bel := by simp [State.exhaust, apply_ite State.bel]

@[simp] theorem endSweeps_bel (c : PCore) : (s.endSweeps c).bel = s.bel := by simp [State.endSweeps]

@[simp] theorem substBank_bel (c : PCore) (b : Nat) : (s.substBank c b).bel = s.bel := by
  simp only [State.substBank]
  split
  · simp [apply_ite State.bel]
  · split
    · split <;> simp
    · rfl

@[simp] theorem substColumn_bel (c : PCore) : (s.substColumn c).bel = s.bel := by
  simp only [State.substColumn]
  split
  · rfl
  · split <;> simp

@[simp] theorem substMkt_bel (n : Nat) : (s.substMkt n).bel = s.bel := by
  simp only [State.substMkt]
  split
  · rfl
  · split <;> simp

@[simp] theorem readAging_bel : s.readAging.bel = s.bel := rfl

@[simp] theorem moveCore_bel (old new : PCore) (l : LCore) : (s.moveCore old new l).bel = s.bel := by simp [State.moveCore]

@[simp] theorem loseCore_bel (c : PCore) (l : LCore) : (s.loseCore c l).bel = s.bel := by simp [State.loseCore]

@[simp] theorem coreLost_timer (p : Pitch) (c : PCore) : (s.coreLost p c).bel.timer = s.bel.timer := by simp [State.coreLost]

@[simp] theorem substCore_timer (c : PCore) (copy : Bool) : (s.substCore c copy).bel.timer = s.bel.timer := by
  unfold State.substCore
  split
  · simp [apply_ite State.bel]
  · split <;> simp [apply_ite State.bel]

@[simp] theorem substCores_timer : s.substCores.bel.timer = s.bel.timer := by
  simp only [State.substCores]
  split
  · split <;> rfl
  · split
    · rfl
    · simp

/-- The substitutions of a Bell leave its registers and its timer. -/
@[simp] theorem substitute_timer : s.substitute.bel.timer = s.bel.timer := by
  simp [State.substitute, apply_ite State.bel]

@[simp] theorem freeClosed_bel : s.freeClosed.bel = s.bel := by
  simp [State.freeClosed, apply_ite State.bel]

@[simp] theorem bankPower_bel (c : PCore) : (s.bankPower c).bel = s.bel := by simp [State.bankPower]

@[simp] theorem noteEmergency_bel (k : Nat) : (s.noteEmergency k).bel = s.bel := by
  simp [State.noteEmergency, apply_ite State.bel]

@[simp] theorem startTrans_bel (k : Nat) : (s.startTrans k).bel = s.bel := by
  simp [State.startTrans, apply_ite State.bel]

@[simp] theorem cutTrans_bel (t : Trans) (k : Nat) : (s.cutTrans t k).bel = s.bel := by
  simp [State.cutTrans, apply_ite State.bel]

@[simp] theorem retarget_bel : s.retarget.bel = s.bel := by
  simp only [State.retarget]
  split
  · rfl
  · split
    · simp
    · simp [apply_ite State.bel]

/-! ### The Bell -/

@[simp] theorem bellRecord_timer : s.bellRecord.bel.timer = s.bel.timer := by
  unfold State.bellRecord
  split
  · rfl
  · simp [BellSt.timer]

/-- A master's marker for the next Bell announces the period that BEL.PERIOD holds, and nothing else of the timer changes but
the stop request that it carries. -/
theorem announce_bel : s.announce.bel = if s.bel.master then
    { s.bel with periodNext := s.bel.periodReg, stopSent := s.bel.stopAt } else s.bel := by
  cases hm : s.bel.master <;> simp [State.announce, hm]

/-- The later rows of a Bell, up to their last: either the marker of the next Bell, or the stop at this one. -/
theorem bellRest_eq (stop : Bool) : ∃ u : State, u.bel.timer = s.bel.timer ∧ s.bellRest stop = (if !stop then u.announce else
    ({ u with bel := { u.bel with stopped := true, running := false, stopAt := false } } : State).note 0xC002 0).retarget := by
  refine ⟨_, ?_, rfl⟩
  simp [apply_ite State.bel, apply_ite BellSt.timer]

/-! ### What a Bell does to its count and its period -/

/-- Without a start barrier the Bell timer counts one. -/
theorem bellTimer_count (hb : s.bel.barrier = none) : s.bellTimer.1.bel.count = s.bel.count + 1 := by simp [State.bellTimer, hb]

/-- On a chip that is not linked the period that starts is the one that a master has announced, or what BEL.PERIOD holds. -/
theorem bellTimer_period (hl : s.bel.linked = false) :
    s.bellTimer.1.bel.period = if s.bel.master then s.bel.periodNext else s.bel.periodReg := by simp [State.bellTimer, hl]

/-- A master that is not linked stops at the Bell whose marker said so. -/
theorem bellTimer_stop (hl : s.bel.linked = false) (hm : s.bel.master = true) : s.bellTimer.2 = s.bel.stopSent := by
  simp [State.bellTimer, hl, hm]

/-- The Bell timer leaves BEL.PERIOD as accepted, and BEL.CTRL. -/
theorem bellTimer_periodReg : s.bellTimer.1.bel.periodReg = s.bel.periodReg := rfl
theorem bellTimer_master : s.bellTimer.1.bel.master = s.bel.master := rfl

/-- The later rows leave the count and the period that the Bell timer has set. -/
theorem bellRest_count_period (stop : Bool) :
    (s.bellRest stop).bel.count = s.bel.count ∧ (s.bellRest stop).bel.period = s.bel.period := by
  obtain ⟨u, hu, e⟩ := bellRest_eq s stop
  have hc : u.bel.count = s.bel.count := BellSt.count_of_timer hu
  have hp : u.bel.period = s.bel.period := BellSt.period_of_timer hu
  rw [e, retarget_bel]
  cases stop
  · simp only [Bool.not_false, if_true, announce_bel]
    split <;> exact ⟨hc, hp⟩
  · simp [hc, hp]

/-- At a Bell that does not stop the block a master announces the period that BEL.PERIOD holds. -/
theorem bellRest_periodNext (hm : s.bel.master = true) : (s.bellRest false).bel.periodNext = s.bel.periodReg := by
  obtain ⟨u, hu, e⟩ := bellRest_eq s false
  have hr : u.bel.periodReg = s.bel.periodReg := BellSt.periodReg_of_timer hu
  have hm' : u.bel.master = true := (BellSt.master_of_timer hu).trans hm
  rw [e, retarget_bel]
  simp [announce_bel, hm', hr]

/-- A Bell is its trace record, its timer and its rows. -/
theorem bellNow_eq : s.bellNow = s.bellRecord.bellTimer.1.bellRows.bellRest s.bellRecord.bellTimer.2 := rfl

theorem bellNow_count (hb : s.bel.barrier = none) : s.bellNow.bel.count = s.bel.count + 1 := by
  have hr := bellRecord_timer s
  calc s.bellNow.bel.count
      = s.bellRecord.bellTimer.1.bellRows.bel.count := by rw [bellNow_eq, (bellRest_count_period _ _).1]
    _ = s.bellRecord.bellTimer.1.bel.count := BellSt.count_of_timer (bellRows_timer _)
    _ = s.bellRecord.bel.count + 1 := bellTimer_count _ ((BellSt.barrier_of_timer hr).trans hb)
    _ = s.bel.count + 1 := by rw [BellSt.count_of_timer hr]

theorem bellNow_period (hl : s.bel.linked = false) :
    s.bellNow.bel.period = if s.bel.master then s.bel.periodNext else s.bel.periodReg := by
  have hr := bellRecord_timer s
  calc s.bellNow.bel.period
      = s.bellRecord.bellTimer.1.bellRows.bel.period := by rw [bellNow_eq, (bellRest_count_period _ _).2]
    _ = s.bellRecord.bellTimer.1.bel.period := BellSt.period_of_timer (bellRows_timer _)
    _ = if s.bellRecord.bel.master then s.bellRecord.bel.periodNext else s.bellRecord.bel.periodReg :=
      bellTimer_period _ ((BellSt.linked_of_timer hr).trans hl)
    _ = if s.bel.master then s.bel.periodNext else s.bel.periodReg :=
      by rw [BellSt.master_of_timer hr, BellSt.periodNext_of_timer hr, BellSt.periodReg_of_timer hr]

theorem bellNow_periodNext (hl : s.bel.linked = false) (hm : s.bel.master = true) (hs : s.bel.stopSent = false) :
    s.bellNow.bel.periodNext = s.bel.periodReg := by
  have hr := bellRecord_timer s
  have hrows := bellRows_timer s.bellRecord.bellTimer.1
  have go : s.bellRecord.bellTimer.2 = false := (bellTimer_stop _ ((BellSt.linked_of_timer hr).trans hl)
    ((BellSt.master_of_timer hr).trans hm)).trans ((BellSt.stopSent_of_timer hr).trans hs)
  have master : s.bellRecord.bellTimer.1.bellRows.bel.master = true :=
    (BellSt.master_of_timer hrows).trans ((bellTimer_master _).trans ((BellSt.master_of_timer hr).trans hm))
  calc s.bellNow.bel.periodNext
      = (s.bellRecord.bellTimer.1.bellRows.bellRest false).bel.periodNext := by rw [bellNow_eq, go]
    _ = s.bellRecord.bellTimer.1.bellRows.bel.periodReg := bellRest_periodNext _ master
    _ = s.bellRecord.bellTimer.1.bel.periodReg := BellSt.periodReg_of_timer hrows
    _ = s.bellRecord.bel.periodReg := bellTimer_periodReg _
    _ = s.bel.periodReg := BellSt.periodReg_of_timer hr

/-- A Bell that is due, with no start barrier, falls at the time that the timer or the marker names. -/
theorem bell_of_due (hd : s.bellDue = true) (hb : s.bel.barrier = none) : s.bell = (s.advanceTo s.nextBell).bellNow := by
  simp [State.bell, hd, hb]

/-- A BELL that is not due changes nothing (log entry 7). -/
theorem bell_of_not_due (hd : s.bellDue = false) : s.bell = s := by simp [State.bell, hd]

/-! ### BEL.PERIOD -/

theorem writePeriod_linked (v : W32) (hl : s.bel.linked = true) : s.writePeriod v = .ignored s := by simp [State.writePeriod, hl]

theorem writePeriod_inRange (v : W32) (hl : s.bel.linked = false) (h1 : 10000 ≤ fld v 26 0) (h2 : fld v 26 0 ≤ 100000000) :
    s.writePeriod v = .done { s with bel := { s.bel with periodReg := fld v 26 0 } } := by
  have a : ¬ fld v 26 0 < 10000 := by omega
  have b : ¬ fld v 26 0 > 100000000 := by omega
  simp [State.writePeriod, hl, a, b]

theorem writePeriod_outOfRange (v : W32) (hl : s.bel.linked = false) (h : fld v 26 0 < 10000 ∨ 100000000 < fld v 26 0) :
    s.writePeriod v = .ignored (s.note 0x2006) := by
  simp [State.writePeriod, State.rangeIgnored, hl, h]

/-- A write at the offset of BEL.PERIOD has what the register's own rule answers. -/
theorem regWrite_period_ignored (v : W32) (t : State) (h : s.writePeriod v = .ignored t) : s.regWrite 0x4004 v = .ignored t := by
  simp [State.regWrite, State.writeBell, h]
theorem regWrite_period_done (v : W32) (t : State) (h : s.writePeriod v = .done t) : s.regWrite 0x4004 v = .done t := by
  simp [State.regWrite, State.writeBell, h]

/-- A write that BEL.PERIOD ignores leaves at most a report of it. -/
theorem exec_belPeriodWrite_ignored (v : W32) (t : State) (ho : s.portOpen) (h : s.writePeriod v = .ignored t) (only : ReportsOnly s t) :
    exec (.belPeriodWrite v) s = .next { t with mgmt := { t.mgmt with err := false } } := by
  have e := portWrite_ignored s 0x4004 v t ho (regWrite_period_ignored s v t h)
  have whole := act_eq s (fun s => s.portWrite 0x4004 v) ho.1 (by rw [e]; exact only.pending) (by rw [e]; exact only.straps)
    (by rw [e]; exact only.fuse) (by rw [e]; exact only.wrap)
  exact congrArg _ (whole.trans e)

/-- A write that BEL.PERIOD takes changes the registers of the Bell alone. -/
theorem exec_belPeriodWrite_done (v : W32) (b : BellSt) (ho : s.portOpen) (h : s.writePeriod v = .done { s with bel := b }) :
    exec (.belPeriodWrite v) s = .next { s.portOk with bel := b } := by
  have e := portWrite_done s 0x4004 v _ ho (regWrite_period_done s v _ h)
  have whole := act_eq s (fun s => s.portWrite 0x4004 v) ho.1 (by rw [e]) (by rw [e]) (by rw [e]) (by rw [e])
  exact congrArg _ (whole.trans e)

theorem exec_bell : exec .bell s = .next (s.act State.bell) := rfl

end

/-- Settles O42: a write of BEL.PERIOD has what `writePeriod` answers, and every row of a Bell but its timer and the marker of the
next one leaves the Bell's count and periods. -/
theorem bellPeriod : Obligations.BellPeriod := by
  unfold Obligations.BellPeriod
  refine ⟨⟨rfl, rfl⟩, fun s v ho => ⟨fun hl _ => ?_, fun hl h1 h2 => ?_, fun hl h => ?_⟩, fun s hw => ⟨fun hd hb => ?_, fun hd => ?_⟩⟩
  · exact exec_belPeriodWrite_ignored s v s ho (writePeriod_linked s v hl) (ReportsOnly.refl s)
  · exact exec_belPeriodWrite_done s v _ ho (writePeriod_inRange s v hl h1 h2)
  · have only := note_only s 0x2006 0
    refine ⟨_, exec_belPeriodWrite_ignored s v _ ho (writePeriod_outOfRange s v hl h) only, only.bel, fun h1 h2 h3 => ?_⟩
    obtain ⟨w, hw, hc, -⟩ := report_window s { code := 0x2006, origin := oCtl, detail := BitVec.ofNat 128 0 } false h1 h2 h3
    exact ⟨w, hw, hc⟩
  · have bel : (s.act State.bell).bel = (s.advanceTo s.nextBell).bellNow.bel := by
      rw [act_proj s State.bell State.bel hw fun _ _ _ _ _ => rfl, bell_of_due s hd hb]
    have before := advanceTo_bel s s.nextBell
    refine ⟨_, exec_bell s, ?_, fun hl hm => ?_, fun hl hm => ⟨?_, fun hs => ?_⟩⟩
    · rw [bel, bellNow_count _ (by rwa [before]), before]
    · rw [bel, bellNow_period _ (by rwa [before]), before, hm]; rfl
    · rw [bel, bellNow_period _ (by rwa [before]), before, hm]; rfl
    · rw [bel, bellNow_periodNext _ (by rwa [before]) (by rwa [before]) (by rwa [before]), before]
  · have still := bell_of_not_due s hd
    rw [exec_bell, act_eq s State.bell hw (by rw [still]) (by rw [still]) (by rw [still]) (by rw [still]), still]

end Sys2Proof.Machine

/-! ## The register pairs _LO and _HI (R418)

A read of a _LO half captures the upper half; a write of a _LO half commits the half that is staged, or else the upper half that is
there. -/

namespace Sys2Proof.Machine

section

variable (s : State)

/-! ### Reads -/

/-- Where the _LO half of a pair lies, no other pair's _LO half lies four bytes on. -/
theorem pairVal_hi (lo : Nat) (h : (s.pairVal lo).isSome = true) : s.pairVal (lo + 4) = none := by
  unfold State.pairVal at h
  split at h
  case h_16 => cases h
  all_goals rfl

theorem regRead_pairLo (lo w : Nat) (h : s.pairVal lo = some w) : s.regRead lo = some (BitVec.ofNat 32 w) := by
  simp [State.regRead, h]

/-- The _HI half of a pair reads as the captured upper half, or as 0 where none is captured. -/
theorem regRead_pairHi (lo : Nat) (h : (s.pairVal lo).isSome = true) :
    s.regRead (lo + 4) = some ((s.mgmt.caps.find lo).getD 0) := by
  simp [State.regRead, pairVal_hi s lo h, h]

/-- The state after a read of the _LO half of a pair whose value is w. -/
def State.captured (s : State) (lo w : Nat) : State :=
  { s with mgmt := { s.mgmt with
      rdata := BitVec.ofNat 32 w, err := false, caps := s.mgmt.caps.insert lo (BitVec.ofNat 32 (w / 2 ^ 32)) } }

theorem exec_pairLoRead (off : W16) (w : Nat) (hw : s.wrap.hold = false) (hs : s.cfg.stage ≠ 0)
    (h : s.pairVal (regOff off) = some w) : exec (.pairLoRead off) s = .next (s.captured (regOff off) w) := by
  have e : s.portRead off = s.captured (regOff off) w := by
    simp [State.portRead, hs, regRead_pairLo s _ w h, h, State.captured]
  have whole := act_eq s (fun s => s.portRead off) hw (by rw [e]; rfl) (by rw [e]; rfl) (by rw [e]; rfl) (by rw [e]; rfl)
  exact congrArg _ (whole.trans e)

/-- After a read of a pair's _LO half its _HI half reads as the upper half that was there. -/
theorem captured_regRead_hi (lo w : Nat) (h : s.pairVal lo = some w) :
    (s.captured lo w).regRead (lo + 4) = some (BitVec.ofNat 32 (w / 2 ^ 32)) := by
  have same : (s.captured lo w).pairVal lo = s.pairVal lo := rfl
  rw [regRead_pairHi _ lo (by rw [same, h]; rfl)]
  simp [State.captured, find_insert]

/-! ### The value that a write of a _LO half commits -/

/-- The upper half that a write of the _LO half commits: the one that is staged, or else the one that is there. -/
def State.upperHalf (s : State) (lo : Nat) : W32 :=
  (s.mgmt.staged.find lo).getD (BitVec.ofNat 32 ((s.pairVal lo).getD 0 / 2 ^ 32))

theorem upperHalf_staged (lo : Nat) (h : W32) (hs : s.mgmt.staged.find lo = some h) : s.upperHalf lo = h := by
  simp [State.upperHalf, hs]

theorem upperHalf_kept (lo w : Nat) (hs : s.mgmt.staged.find lo = none) (hw : s.pairVal lo = some w) :
    s.upperHalf lo = BitVec.ofNat 32 (w / 2 ^ 32) := by simp [State.upperHalf, hs, hw]

/-- The 64 bits that a write of v to the _LO half commits. -/
def State.joined (s : State) (lo : Nat) (v : W32) : W64 := s.upperHalf lo ++ v

/-- The state with nothing staged for a pair. -/
def State.unstaged (s : State) (lo : Nat) : State := { s with mgmt := { s.mgmt with staged := s.mgmt.staged.erase lo } }

theorem ofNat_shiftLeft_or (n : Nat) (v : W32) : BitVec.ofNat 64 (n <<< 32 ||| v.toNat) = BitVec.ofNat 32 n ++ v := by
  apply BitVec.eq_of_toNat_eq
  have low : n <<< 32 ||| v.toNat = n * 2 ^ 32 + v.toNat := by
    rw [Nat.shiftLeft_eq, Nat.mul_comm, Nat.two_pow_add_eq_or_of_lt v.isLt]
  have join : (n % 2 ^ 32) <<< 32 ||| v.toNat = n % 2 ^ 32 * 2 ^ 32 + v.toNat := by
    rw [Nat.shiftLeft_eq, Nat.mul_comm, Nat.two_pow_add_eq_or_of_lt v.isLt]
  rw [BitVec.toNat_append, BitVec.toNat_ofNat, BitVec.toNat_ofNat, low, join]
  omega

theorem commitLo_eq (lo : Nat) (v : W32) : s.commitLo lo v = (s.joined lo v, s.unstaged lo) := by
  unfold State.commitLo State.joined State.upperHalf State.unstaged
  simp only [ofNat_shiftLeft_or]
  cases s.mgmt.staged.find lo with
  | none => rfl
  | some h => simp

/-! ### Writes of the two halves, pair by pair -/

/-- A write of the _HI half of a pair stages it, and does nothing else. -/
def State.StagesPair (s : State) (lo : Nat) (v : W32) : Prop := s.regWrite (lo + 4) v = .done (s.stageHi lo v)

/-- A write of the _LO half of a pair is taken, unstages the upper half, and leaves the pair with the bits of m of both halves. -/
structure State.CommitsPair (s t : State) (lo : Nat) (m : W64) (v : W32) : Prop where
  write : s.regWrite lo v = .done t
  mgmt : t.mgmt = (s.unstaged lo).mgmt
  val : t.pairVal lo = some (s.joined lo v &&& m).toNat

/-! CFG.SEED, MKT.SWAPBASE and ERR.RMAP, whatever HST.CTRL.EN -/

theorem seed_stages (v : W32) : s.StagesPair 0x1114 v := rfl
theorem swapBase_stages (v : W32) : s.StagesPair 0x5020 v := rfl
theorem rmap_stages (v : W32) : s.StagesPair 0x9028 v := rfl

theorem seed_commits (v : W32) : ∃ t, s.CommitsPair t 0x1114 0xFFFFFFFFFFFFFFFF v := by
  refine ⟨(s.unstaged 0x1114).modCtx s.selSeed fun c => { c with seedReg := s.joined 0x1114 v }, ?_, rfl, ?_⟩
  · simp only [State.regWrite, State.writeCfg, commitLo_eq]; rfl
  · have all : s.joined 0x1114 v &&& 0xFFFFFFFFFFFFFFFF = s.joined 0x1114 v := BitVec.and_allOnes
    have new := modCtx_ctx (s.unstaged 0x1114) s.selSeed s.selSeed fun c => { c with seedReg := s.joined 0x1114 v }
    rw [if_pos rfl] at new
    rw [all]
    exact congrArg (fun c : Ctx => some c.seedReg.toNat) new

theorem swapBase_commits (v : W32) : ∃ t, s.CommitsPair t 0x5020 0xFFFFFFFFFFFFFF80 v := by
  refine ⟨{ s.unstaged 0x5020 with mkt := { s.mkt with swapBaseReg := s.joined 0x5020 v &&& ~~~0x7F } }, ?_, rfl, rfl⟩
  simp only [State.regWrite, State.writeBell, commitLo_eq]; rfl

/-- Writing the repair map off the block changes neither its address nor the management slave port. -/
theorem writeMap_mgmt : s.writeMap.mgmt = s.mgmt := by
  unfold State.writeMap
  split
  · rfl
  · exact (hostWrite_only _ _ _ _).mgmt

theorem writeMap_rmap : s.writeMap.errs.rmap = s.errs.rmap := by
  unfold State.writeMap
  split
  · rfl
  · exact (congrArg ErrSt.rmap (hostWrite_only _ _ _ _).errs :)

/-- The state in which ERR.RMAP holds what a write of its _LO half commits, before the map itself is written. -/
def State.rmapCommitted (s : State) (v : W32) : State :=
  { s.unstaged 0x9028 with errs := { s.errs with rmap := s.joined 0x9028 v &&& ~~~0xFFF } }

theorem regWrite_rmap (v : W32) : s.regWrite 0x9028 v =
    .done (if (s.rmapCommitted v).errs.dirty && (s.rmapCommitted v).errs.rmap != 0 then (s.rmapCommitted v).writeMap else s.rmapCommitted v) := by
  simp only [State.regWrite, State.writeErr, State.writeRmap, commitLo_eq]; rfl

theorem rmap_commits (v : W32) : ∃ t, s.CommitsPair t 0x9028 0xFFFFFFFFFFFFF000 v := by
  refine ⟨_, regWrite_rmap s v, ?_, congrArg (fun r : W64 => some r.toNat) (?_ : _ = (s.rmapCommitted v).errs.rmap)⟩
  · split
    · exact writeMap_mgmt _
    · rfl
  · split
    · exact writeMap_rmap _
    · rfl

/-! The pairs of the host unit, which takes their writes while HST.CTRL.EN is 0 (R311) -/

/-- The pairs of HST (Table 13.10), with the bits that they hold. -/
def hostPairs : List (Nat × W64) := [
  (0x2010, 0xFFFFFFFFFFFFFFC0), (0x2018, 0xFFFFFFFFFFFFFFC0), (0x2020, 0xFFFFFFFFFFFFF000), (0x2028, 0xFFFFFFFFFFFFF000),
  (0x2030, 0xFFFFFFFFFFFFF000), (0x2038, 0xFFFFFFFFFFFFF000)]

/-- While HST.CTRL.EN is 0 a write of a host register other than HST.CTRL and HST.WAKE has what the register's own rule answers. -/
theorem regWrite_hostReg (off : Nat) (v : W32) (t : State) (hen : s.hst.en = false) (hp : off / 0x1000 = 2) (h0 : off ≠ 0x2000)
    (h : s.writeHstReg off v = .done t) : s.regWrite off v = .done t := by
  have h1 : off ≠ 0x3000 := by omega
  simp [State.regWrite, hp, State.writeHost, h0, h1, hen, h]

theorem hostPair_stages (v : W32) (hen : s.hst.en = false) : ∀ e ∈ hostPairs, s.StagesPair e.1 v := by
  simp only [hostPairs, List.forall_mem_cons]
  refine ⟨?_, ?_, ?_, ?_, ?_, ?_, fun _ h => by cases h⟩ <;>
    exact regWrite_hostReg s _ v _ hen (by decide) (by decide) rfl

/-- A host pair commits when its own rule leaves a host unit h in which the pair reads what was joined. -/
theorem hostPair_commits_of (lo : Nat) (m : W64) (v : W32) (h : HostSt) (hen : s.hst.en = false) (hp : lo / 0x1000 = 2) (h0 : lo ≠ 0x2000)
    (hw : s.writeHstReg lo v = .done { s.unstaged lo with hst := h })
    (hv : ({ s.unstaged lo with hst := h } : State).pairVal lo = some (s.joined lo v &&& m).toNat) :
    ∃ t, s.CommitsPair t lo m v := ⟨_, regWrite_hostReg s lo v _ hen hp h0 hw, rfl, hv⟩

theorem hostPair_commits (v : W32) (hen : s.hst.en = false) : ∀ e ∈ hostPairs, ∃ t, s.CommitsPair t e.1 e.2 v := by
  simp only [hostPairs, List.forall_mem_cons]
  refine ⟨?_, ?_, ?_, ?_, ?_, ?_, fun _ h => by cases h⟩ <;>
    exact hostPair_commits_of s _ _ v _ hen (by decide) (by decide) (by simp only [State.writeHstReg, commitLo_eq]; rfl) rfl

/-! ### Every writable pair -/

/-- A writable pair is a host pair or one of the other three. -/
theorem pairTable_cases : ∀ e ∈ pairTable, e ∈ hostPairs ∨
    e = (0x1114, 0xFFFFFFFFFFFFFFFF) ∨ e = (0x5020, 0xFFFFFFFFFFFFFF80) ∨ e = (0x9028, 0xFFFFFFFFFFFFF000) := by decide

theorem regOff_pair : ∀ e ∈ pairTable, regOff (BitVec.ofNat 16 e.1) = e.1 ∧ regOff (BitVec.ofNat 16 (e.1 + 4)) = e.1 + 4 := by decide

theorem pair_stages (v : W32) (hen : s.hst.en = false) (e : Nat × W64) (he : e ∈ pairTable) : s.StagesPair e.1 v := by
  rcases pairTable_cases e he with h | rfl | rfl | rfl
  · exact hostPair_stages s v hen e h
  · exact seed_stages s v
  · exact swapBase_stages s v
  · exact rmap_stages s v

theorem pair_commits (v : W32) (hen : s.hst.en = false) (e : Nat × W64) (he : e ∈ pairTable) : ∃ t, s.CommitsPair t e.1 e.2 v := by
  rcases pairTable_cases e he with h | rfl | rfl | rfl
  · exact hostPair_commits s v hen e h
  · exact seed_commits s v
  · exact swapBase_commits s v
  · exact rmap_commits s v

/-! ### Writes through the port -/

theorem exec_registerWrite (off : W16) (v : W32) : exec (.registerWrite off v) s = .next (s.act fun s => s.portWrite (regOff off) v) := rfl

/-- A register's own rule that changes none of what only its own commands change has its effect whole. -/
theorem exec_registerWrite_done (off : W16) (v : W32) (t : State) (ho : s.portOpen) (h : s.regWrite (regOff off) v = .done t)
    (hp : t.pending = s.pending) (ht : t.straps = s.straps) (hf : t.fuse = s.fuse) (hw : t.wrap = s.wrap) :
    exec (.registerWrite off v) s = .next { t with mgmt := { t.mgmt with err := false } } := by
  have e := portWrite_done s (regOff off) v t ho h
  have whole := act_eq s (fun s => s.portWrite (regOff off) v) ho.1 (by rw [e]; exact hp) (by rw [e]; exact ht) (by rw [e]; exact hf)
    (by rw [e]; exact hw)
  exact congrArg _ (whole.trans e)

theorem exec_pairHiWrite (off : W16) (lo : Nat) (v : W32) (ho : s.portOpen) (hr : regOff off = lo + 4) (h : s.StagesPair lo v) :
    exec (.registerWrite off v) s = .next { s with mgmt := { s.mgmt with staged := s.mgmt.staged.insert lo v, err := false } } :=
  exec_registerWrite_done s off v (s.stageHi lo v) ho (hr ▸ h) rfl rfl rfl rfl

theorem exec_pairLoWrite (off : W16) (lo : Nat) (m : W64) (v : W32) (ho : s.portOpen) (hr : regOff off = lo) (h : ∃ t, s.CommitsPair t lo m v) :
    ∃ t, exec (.registerWrite off v) s = .next t ∧ t.mgmt.staged = s.mgmt.staged.erase lo ∧
      t.pairVal lo = some (s.joined lo v &&& m).toNat := by
  obtain ⟨t, write, mgmt, val⟩ := h
  subst hr
  have e := portWrite_done s (regOff off) v t ho write
  refine ⟨_, exec_registerWrite s off v, ?_, ?_⟩
  · rw [act_proj s _ (·.mgmt.staged) ho.1 fun _ _ _ _ _ => rfl, e]
    exact (congrArg MgmtSt.staged mgmt :)
  · rw [act_proj s _ (·.pairVal (regOff off)) ho.1 fun _ _ _ _ _ => rfl, e]
    exact val

theorem coresLo_write (v : W32) (ho : s.portOpen) :
    exec (.registerWrite 0x6004 v) s = .next (s.portOk.modPit s.selPit fun p => { p with stagedLo := v }) :=
  exec_registerWrite_done s 0x6004 v (s.modPit s.selPit fun p => { p with stagedLo := v }) ho rfl rfl rfl rfl rfl

theorem coresHi_write (v : W32) (ho : s.portOpen) :
    exec (.registerWrite 0x6008 v) s = .next (s.portOk.modPit s.selPit fun p => { p with stagedHi := v }) :=
  exec_registerWrite_done s 0x6008 v (s.modPit s.selPit fun p => { p with stagedHi := v }) ho rfl rfl rfl rfl rfl

end

/-- Settles O41: a read of a _LO half captures the upper half of `pairVal`, and a write of it commits the `upperHalf`, staged or
else there already, joined with the half written. -/
theorem pairRegisters : Obligations.PairRegisters := by
  unfold Obligations.PairRegisters
  intro s v hw hs
  refine ⟨fun off w h => ?_, fun lo h hc => ?_, fun st => ⟨_, rfl, rfl, rfl⟩, fun hd hen e he => ?_, fun hd => ?_⟩
  · exact ⟨_, exec_pairLoRead s off w hw hs h, rfl, rfl, captured_regRead_hi s _ w h, rfl⟩
  · rw [regRead_pairHi s lo h, hc]; rfl
  · have ho : s.portOpen := ⟨hw, hs, hd⟩
    obtain ⟨atLo, atHi⟩ := regOff_pair e he
    obtain ⟨t, run, staged, val⟩ := exec_pairLoWrite s _ e.1 e.2 v ho atLo (pair_commits s v hen e he)
    refine ⟨exec_pairHiWrite s _ e.1 v ho atHi (pair_stages s v hen e he), fun h hh => ⟨t, run, staged, ?_⟩, fun w hn hv => ⟨t, run, ?_⟩⟩
    · rw [val, State.joined, upperHalf_staged s e.1 h hh]
    · rw [val, State.joined, upperHalf_kept s e.1 w hn hv]
  · have ho : s.portOpen := ⟨hw, hs, hd⟩
    exact ⟨coresLo_write s v ho, coresHi_write s v ho⟩

end Sys2Proof.Machine
